-- ==== Sys2Proof/Word.lean ====
section
/-! DEFINITION. The word types of the block and the one-bit values of its notation (R14, R51, R70). -/

namespace Sys2Proof

/-- A 64-bit unsigned quantity: a position, an interval, a count or a constant (R14, R20). -/
abbrev Word := BitVec 64

/-- Format `EV`: the 66-bit input event word, `op` in bits 65:64 and `pos` in bits 63:0 (R71). -/
abbrev EvWord := BitVec 66

/-- Format `DV`: the 8-bit dispatch vector (R80). -/
abbrev DvWord := BitVec 8

/-- Format `FA`: the one-bit frame-assembler condition (R83). -/
abbrev FaWord := BitVec 1

/-- Format `FRAME`: the packed Frame record (R84). -/
abbrev FrameWord := BitVec 202

/-- Format `MARKER`: the packed Marker record (R85). -/
abbrev MarkerWord := BitVec 68

/-- The value of one decoded bit: `Zero = 0`, `One = 1` (R14). -/
inductive BitValue where
  | zero
  | one
deriving DecidableEq, Repr

end Sys2Proof
end

