-- ==== Sys2Proof/Config.lean ====
section
/-! DEFINITION. The fixed constants of R7 and the model's choice of the two open parameters of R8. -/

namespace Sys2Proof.Config

/-- `BIT_RATE`: nominal bit rate in bits per second (R7). -/
def bitRate : Nat := 2000

/-- `PRE_MIN`: least number of preamble One bits for lock, inclusive (R7). -/
def preMin : Nat := 11

/-- `PRE_MAX`: greatest number of preamble One bits for lock, inclusive (R7). -/
def preMax : Nat := 25

/-- `FRAME_BITS`: bits per frame (R7). -/
def frameBits : Nat := 11

/-- `DATA_BITS`: data bits per frame (R7). -/
def dataBits : Nat := 8

/-- `TOL_MIN`: least tolerance of either window, in samples (R7). -/
def tolMin : Nat := 3

/-- `FS_MIN`: least supported sample rate in Hz (R7). -/
def fsMin : Nat := 40000

/-- `cfg_fs` of the reset that `State.reset` stands for. DESIGN CHOICE (log entry 3, unsafe): R8 leaves
`FS` an open parameter with no default; this is the rate of the source's own scenarios. -/
def resetFs : Word := 4000000#64

/-- `cfg_start` of the reset that `State.reset` stands for. DESIGN CHOICE (log entry 3, unsafe): R8 leaves
`START_POS` an open parameter with no default. -/
def resetStart : Word := 0#64

end Sys2Proof.Config
end

