-- ==== Sys2Proof/Syntax.lean ====
section
/-! DEFINITION. The operations of the block, one constructor per row of spec/opcode_table.json, and the
formats their words come in (R70). -/

namespace Sys2Proof

/-- The operations (R2, R81). The operand `pos` of a `DV` operation is the position carried by the `EDGE`
event that performs it. A mnemonic with two rows in R81 has one constructor per row (log entry 9). -/
inductive Instr where
  /-- `E_HALT`, DV `1xxxxxxx` (R171). -/
  | eHalt (pos : Word)
  /-- `E_GSKIP`, DV `01xxxxxx` (R104). -/
  | eGskip (pos : Word)
  /-- `E_GLITCH`, DV `00xx00xx` (R103). -/
  | eGlitch (pos : Word)
  /-- `H_SHORT1`, DV `00001xxx` (R121). -/
  | hShort1 (pos : Word)
  /-- `H_LOCK`, DV `000001x1` (R123). -/
  | hLock (pos : Word)
  /-- `H_LENERR`, DV `000001x0` (R128). -/
  | hLenerr (pos : Word)
  /-- `H_ONE`, DV `00011x1x` (R122). -/
  | hOne (pos : Word)
  /-- `H_LOCK2`, first row, DV `000101x1`: the second interval is Long only (R124). -/
  | hLock2 (pos : Word)
  /-- `H_LOCK2`, second row, DV `00011101`: the second interval lies in both windows (R124). -/
  | hLock2Shared (pos : Word)
  /-- `H_LENERR2`, first row, DV `000101x0` (R129). -/
  | hLenerr2 (pos : Word)
  /-- `H_LENERR2`, second row, DV `00011100` (R129). -/
  | hLenerr2Shared (pos : Word)
  /-- `H_TERR`, DV `0001100x` (R127). -/
  | hTerr (pos : Word)
  /-- `L_SHORT1`, DV `00101xxx` (R141). -/
  | lShort1 (pos : Word)
  /-- `L_ZERO`, DV `001001xx` (R142). -/
  | lZero (pos : Word)
  /-- `L_ONE`, DV `00111x1x` (R143). -/
  | lOne (pos : Word)
  /-- `L_TERR`, first row, DV `001101xx`: Short then Long (R145). -/
  | lTerrLong (pos : Word)
  /-- `L_TERR`, second row, DV `00111x0x`: Short and Short whose sum is not Long (R145). -/
  | lTerrSum (pos : Word)
  /-- `EDGE(pos)`, EV `op = 00` (R170). -/
  | edge (pos : Word)
  /-- `EOS`, EV `op = 01` (R173). -/
  | eos
  /-- `CANCEL`, EV `op = 10` (R175). -/
  | cancel
  /-- `RST`, SIG, with the side inputs sampled at the reset (R177). -/
  | rst (cfgFs cfgStart : Word)
  /-- `FA_SAVE`, FA `0` (R151). -/
  | faSave
  /-- `FA_ASSEMBLE`, FA `1` (R157). -/
  | faAssemble
deriving DecidableEq, Repr

/-- The eight condition bits of an `EDGE` event, under the names of R80. -/
structure Dv where
  ht : Bool
  gs : Bool
  lk : Bool
  hf : Bool
  s : Bool
  l : Bool
  ls : Bool
  pl : Bool
deriving DecidableEq, Repr

/-- The rows of the dispatch table (R81), without their operand. -/
inductive DvOp where
  | eHalt | eGskip | eGlitch
  | hShort1 | hLock | hLenerr | hOne | hLock2 | hLock2Shared | hLenerr2 | hLenerr2Shared | hTerr
  | lShort1 | lZero | lOne | lTerrLong | lTerrSum
deriving DecidableEq, Repr

/-- The rows of the `FA` format (R83). -/
inductive FaOp where
  | faSave | faAssemble
deriving DecidableEq, Repr

/-- The formats of spec/opcode_table.json. -/
inductive Format where
  | EV | SIG | DV | FA
deriving DecidableEq, Repr

/-- The word of one operation, tagged with its format (R70). A `DV` word stands with the position of the
event it was computed for, a `SIG` word with its two side inputs. -/
inductive OpWord where
  | ev (w : EvWord)
  | sig (rst : BitVec 1) (cfgFs cfgStart : Word)
  | dv (v : DvWord) (pos : Word)
  | fa (bf : FaWord)
deriving DecidableEq, Repr

/-- What the environment presents to the block at once: the input ports of R89. -/
structure Ports where
  rst : Bool
  cfgFs : Word
  cfgStart : Word
  evValid : Bool
  ev : EvWord
deriving DecidableEq, Repr

end Sys2Proof
end

