-- ==== Sys2Proof/WellFormed.lean ====
section
/-! DEFINITION. Which operations the spec accepts: a reset must name a supported sample rate (R30, R224
item 3, U2). Every other operand value is legal in itself; whether an `EDGE` keeps the order of positions
depends on the state (Safety.lean). -/

namespace Sys2Proof

/-- `FS >= FS_MIN` (R8, R30). The upper bound `FS < 2^64` holds by the width of the port. -/
def supportedRate (cfgFs : Word) : Bool := decide (Config.fsMin ≤ cfgFs.toNat)

/-- The operation is one the spec accepts. -/
def Instr.wf : Instr → Bool
  | .rst cfgFs _ => supportedRate cfgFs
  | .eHalt _ => true
  | .eGskip _ => true
  | .eGlitch _ => true
  | .hShort1 _ => true
  | .hLock _ => true
  | .hLenerr _ => true
  | .hOne _ => true
  | .hLock2 _ => true
  | .hLock2Shared _ => true
  | .hLenerr2 _ => true
  | .hLenerr2Shared _ => true
  | .hTerr _ => true
  | .lShort1 _ => true
  | .lZero _ => true
  | .lOne _ => true
  | .lTerrLong _ => true
  | .lTerrSum _ => true
  | .edge _ => true
  | .eos => true
  | .cancel => true
  | .faSave => true
  | .faAssemble => true

end Sys2Proof
end

