-- ==== Sys2Proof/Decode.lean ====
section
/-! DEFINITION. Decoding of the formats of R70: the event word `EV` (R71), the reset signal `SIG` (R177), the
dispatch vector `DV` (R80, R81) and the condition `FA` (R83); what a presentation at the ports asks for; the
encoder; and the reading of a bare table word. -/

namespace Sys2Proof

/-! ### The dispatch vector -/

/-- `DV = {ht, gs, lk, hf, s, l, ls, pl}`, `ht` most significant (R80). -/
def Dv.toWord (v : Dv) : DvWord :=
  BitVec.ofBool v.ht ++ BitVec.ofBool v.gs ++ BitVec.ofBool v.lk ++ BitVec.ofBool v.hf ++
    BitVec.ofBool v.s ++ BitVec.ofBool v.l ++ BitVec.ofBool v.ls ++ BitVec.ofBool v.pl

/-- The condition bits of a vector, by the bit numbers of R80. -/
def Dv.ofWord (w : DvWord) : Dv where
  ht := w.getLsbD 7
  gs := w.getLsbD 6
  lk := w.getLsbD 5
  hf := w.getLsbD 4
  s := w.getLsbD 3
  l := w.getLsbD 2
  ls := w.getLsbD 1
  pl := w.getLsbD 0

/-- The one row of the dispatch table that matches the vector, by the source's order of tests (R81). -/
def selectRow (v : Dv) : DvOp :=
  if v.ht then .eHalt
  else if v.gs then .eGskip
  else if !v.s && !v.l then .eGlitch
  else if !v.lk then
    if !v.hf then
      if v.s then .hShort1
      else if v.pl then .hLock
      else .hLenerr
    else if v.s && v.ls then .hOne
    else if !v.l then .hTerr
    else if v.s then
      if v.pl then .hLock2Shared else .hLenerr2Shared
    else
      if v.pl then .hLock2 else .hLenerr2
  else if !v.hf then
    if v.s then .lShort1 else .lZero
  else if v.s && v.ls then .lOne
  else if v.s then .lTerrSum
  else .lTerrLong

/-- The row a dispatch word selects (R81, R82). -/
def decodeDv (w : DvWord) : DvOp := selectRow (Dv.ofWord w)

/-- The operation of a row, on the position of the event (R81). -/
def DvOp.instr : DvOp → Word → Instr
  | .eHalt, pos => .eHalt pos
  | .eGskip, pos => .eGskip pos
  | .eGlitch, pos => .eGlitch pos
  | .hShort1, pos => .hShort1 pos
  | .hLock, pos => .hLock pos
  | .hLenerr, pos => .hLenerr pos
  | .hOne, pos => .hOne pos
  | .hLock2, pos => .hLock2 pos
  | .hLock2Shared, pos => .hLock2Shared pos
  | .hLenerr2, pos => .hLenerr2 pos
  | .hLenerr2Shared, pos => .hLenerr2Shared pos
  | .hTerr, pos => .hTerr pos
  | .lShort1, pos => .lShort1 pos
  | .lZero, pos => .lZero pos
  | .lOne, pos => .lOne pos
  | .lTerrLong, pos => .lTerrLong pos
  | .lTerrSum, pos => .lTerrSum pos

/-- One `DV` row of spec/opcode_table.json: the row matches a vector whose bits under the mask are `value`. -/
structure DvRow where
  op : DvOp
  mask : DvWord
  value : DvWord
deriving DecidableEq, Repr

/-- Whether a vector matches the row's pattern (R81). -/
def DvRow.accepts (r : DvRow) (v : DvWord) : Bool := v &&& r.mask == r.value

/-- The `DV` rows of spec/opcode_table.json, in its order. -/
def dvTable : List DvRow :=
  [ ⟨.eHalt, 0x80#8, 0x80#8⟩,
    ⟨.eGskip, 0xc0#8, 0x40#8⟩,
    ⟨.eGlitch, 0xcc#8, 0x00#8⟩,
    ⟨.hShort1, 0xf8#8, 0x08#8⟩,
    ⟨.hLock, 0xfd#8, 0x05#8⟩,
    ⟨.hLenerr, 0xfd#8, 0x04#8⟩,
    ⟨.hOne, 0xfa#8, 0x1a#8⟩,
    ⟨.hLock2, 0xfd#8, 0x15#8⟩,
    ⟨.hLock2Shared, 0xff#8, 0x1d#8⟩,
    ⟨.hLenerr2, 0xfd#8, 0x14#8⟩,
    ⟨.hLenerr2Shared, 0xff#8, 0x1c#8⟩,
    ⟨.hTerr, 0xfe#8, 0x18#8⟩,
    ⟨.lShort1, 0xf8#8, 0x28#8⟩,
    ⟨.lZero, 0xfc#8, 0x24#8⟩,
    ⟨.lOne, 0xfa#8, 0x3a#8⟩,
    ⟨.lTerrLong, 0xfc#8, 0x34#8⟩,
    ⟨.lTerrSum, 0xfa#8, 0x38#8⟩ ]

/-! ### The frame-assembler condition -/

/-- `bf = 0` selects `FA_SAVE`, `bf = 1` selects `FA_ASSEMBLE` (R83). -/
def decodeFa (bf : FaWord) : FaOp := if bf = 1#1 then .faAssemble else .faSave

/-- The operation of an `FA` row (R83). -/
def FaOp.instr : FaOp → Instr
  | .faSave => .faSave
  | .faAssemble => .faAssemble

/-! ### The decoder -/

/-- What a word decodes to: an operation, or a rejection by name. -/
inductive Decoded where
  | instr (i : Instr)
  /-- `op = 0b11`: reserved (R73, U3). -/
  | reservedEventOp
  /-- A `SIG` word whose `rst` is 0 asks for nothing (R89). -/
  | resetNotAsserted
deriving DecidableEq, Repr

/-- `op`, bits 65:64 of an event word (R71). -/
def evOp (w : EvWord) : BitVec 2 := w.extractLsb' 64 2

/-- `pos`, bits 63:0 of an event word (R71). -/
def evPos (w : EvWord) : Word := w.extractLsb' 0 64

/-- The event of an event word; `pos` is ignored for `EOS` and `CANCEL` (R71, R73). -/
def decodeEv (w : EvWord) : Decoded :=
  if evOp w = 0#2 then .instr (.edge (evPos w))
  else if evOp w = 1#2 then .instr .eos
  else if evOp w = 2#2 then .instr .cancel
  else .reservedEventOp

/-- The decoder: total on every word of every format. -/
def decode : OpWord → Decoded
  | .ev w => decodeEv w
  | .sig rst cfgFs cfgStart => if rst = 1#1 then .instr (.rst cfgFs cfgStart) else .resetNotAsserted
  | .dv v pos => .instr ((decodeDv v).instr pos)
  | .fa bf => .instr (decodeFa bf).instr

/-! ### What a presentation asks for -/

/-- The outcome of looking at the ports. -/
inductive Fetched where
  /-- Nothing is presented: the block holds its state (R180). -/
  | idle
  | instr (i : Instr)
  /-- The event word has the reserved `op` (R73). -/
  | reservedEventOp
deriving DecidableEq, Repr

/-- The word presented: `RST` first and alone, an event presented with it being dropped; otherwise the one
event word (R178, R89). -/
def Ports.word? (p : Ports) : Option OpWord :=
  if p.rst then some (.sig 1#1 p.cfgFs p.cfgStart)
  else if p.evValid then some (.ev p.ev)
  else none

/-- What the ports ask for (R178, R180). -/
def fetch (p : Ports) : Fetched :=
  match p.word? with
  | none => .idle
  | some w =>
    match decode w with
    | .instr i => .instr i
    | .reservedEventOp => .reservedEventOp
    | .resetNotAsserted => .idle

/-! ### The encoder -/

/-- An event word from its two fields (R71). -/
def evWord (op : BitVec 2) (pos : Word) : EvWord := op ++ pos

/-- The dispatch word of a row with its free bits 0: the row's `match` in spec/opcode_table.json. -/
def DvOp.word : DvOp → DvWord
  | .eHalt => 0x80#8
  | .eGskip => 0x40#8
  | .eGlitch => 0x00#8
  | .hShort1 => 0x08#8
  | .hLock => 0x05#8
  | .hLenerr => 0x04#8
  | .hOne => 0x1a#8
  | .hLock2 => 0x15#8
  | .hLock2Shared => 0x1d#8
  | .hLenerr2 => 0x14#8
  | .hLenerr2Shared => 0x1c#8
  | .hTerr => 0x18#8
  | .lShort1 => 0x28#8
  | .lZero => 0x24#8
  | .lOne => 0x3a#8
  | .lTerrLong => 0x34#8
  | .lTerrSum => 0x38#8

/-- The word of an operation, free and ignored bits 0 (R70, R71, R81, R83). -/
def encode : Instr → OpWord
  | .eHalt pos => .dv DvOp.eHalt.word pos
  | .eGskip pos => .dv DvOp.eGskip.word pos
  | .eGlitch pos => .dv DvOp.eGlitch.word pos
  | .hShort1 pos => .dv DvOp.hShort1.word pos
  | .hLock pos => .dv DvOp.hLock.word pos
  | .hLenerr pos => .dv DvOp.hLenerr.word pos
  | .hOne pos => .dv DvOp.hOne.word pos
  | .hLock2 pos => .dv DvOp.hLock2.word pos
  | .hLock2Shared pos => .dv DvOp.hLock2Shared.word pos
  | .hLenerr2 pos => .dv DvOp.hLenerr2.word pos
  | .hLenerr2Shared pos => .dv DvOp.hLenerr2Shared.word pos
  | .hTerr pos => .dv DvOp.hTerr.word pos
  | .lShort1 pos => .dv DvOp.lShort1.word pos
  | .lZero pos => .dv DvOp.lZero.word pos
  | .lOne pos => .dv DvOp.lOne.word pos
  | .lTerrLong pos => .dv DvOp.lTerrLong.word pos
  | .lTerrSum pos => .dv DvOp.lTerrSum.word pos
  | .edge pos => .ev (evWord 0#2 pos)
  | .eos => .ev (evWord 1#2 0#64)
  | .cancel => .ev (evWord 2#2 0#64)
  | .rst cfgFs cfgStart => .sig 1#1 cfgFs cfgStart
  | .faSave => .fa 0#1
  | .faAssemble => .fa 1#1

/-- The format of a word. -/
def OpWord.format : OpWord → Format
  | .ev _ => .EV
  | .sig _ _ _ => .SIG
  | .dv _ _ => .DV
  | .fa _ => .FA

/-- The bits of a word that spec/opcode_table.json numbers, as a number. -/
def OpWord.tableBits : OpWord → Nat
  | .ev w => w.toNat
  | .sig rst _ _ => rst.toNat
  | .dv v _ => v.toNat
  | .fa bf => bf.toNat

/-- The presentation that delivers an event word; the configuration wires are not looked at. -/
def Ports.ofEvent (w : EvWord) : Ports :=
  { rst := false, cfgFs := 0#64, cfgStart := 0#64, evValid := true, ev := w }

/-- The presentation that asserts reset; no event is presented with it. -/
def Ports.ofReset (cfgFs cfgStart : Word) : Ports :=
  { rst := true, cfgFs := cfgFs, cfgStart := cfgStart, evValid := false, ev := 0#66 }

/-! ### Bare table words

spec/opcode_table.json gives a `DV` row 8 bits and no position: a dispatch vector is computed by an `EDGE`
event, whose word carries the position. To run a `DV` row as a first operation an `EDGE` must be presented
to a state in which the vector comes out as the row's word. The positions and the first interval used for
that are fixed here, for the constants of `FS = 4000000` (Short 500..1500, Long 1500..2500). DESIGN CHOICE,
log entry 10. -/

/-- The reference position from which the staged event is measured. -/
def stagedRef : Nat := 10000

/-- An interval that has the `s` and `l` bits of the vector and, with `stagedFirst`, its `ls` bit. -/
def stagedInterval (v : Dv) : Nat :=
  match v.s, v.l with
  | false, false => 100
  | true, false => if v.hf && !v.ls then 1400 else 1000
  | true, true => 1500
  | false, true => if v.hf && v.ls then 1800 else 2000

/-- A first interval of the slot for which the sum has the `ls` bit of the vector. -/
def stagedFirst (v : Dv) : Nat :=
  match v.s, v.l with
  | false, false => if v.ls then 1400 else 1000
  | true, _ => if v.ls then 1000 else 1400
  | false, true => if v.ls then 600 else 1000

/-- The position of the staged event. -/
def stagedPos (v : Dv) : Word := BitVec.ofNat 64 (stagedRef + stagedInterval v)

/-- The word a table row's bits stand for, by the number of bits the row has: fewer than 8 the format `FA`,
8 the format `DV`, 66 (72 in whole bytes) the format `EV`, 129 (136) the format `SIG` with `rst` in bit 0,
`cfg_fs` in bits 64:1 and `cfg_start` in bits 128:65. A word with a bit beyond its format's width is none.
DESIGN CHOICE, log entry 10: the table's formats cannot be told apart by their bits alone. -/
def OpWord.ofTable (nbits w : Nat) : Option OpWord :=
  if nbits < 8 then
    if w < 2 then some (.fa (BitVec.ofNat 1 w)) else none
  else if nbits = 8 then
    if w < 256 then some (.dv (BitVec.ofNat 8 w) (stagedPos (Dv.ofWord (BitVec.ofNat 8 w)))) else none
  else if 66 ≤ nbits ∧ nbits ≤ 72 then
    if w < 2 ^ 66 then some (.ev (BitVec.ofNat 66 w)) else none
  else if 129 ≤ nbits ∧ nbits ≤ 136 then
    if w < 2 ^ 129 then
      some (.sig (BitVec.ofNat 1 w) (BitVec.ofNat 64 (w >>> 1)) (BitVec.ofNat 64 (w >>> 65)))
    else none
  else none

/-- The operation the decoder reads from the bits of a table row. -/
def decodeTableWord (nbits w : Nat) : Option Instr :=
  match OpWord.ofTable nbits w with
  | none => none
  | some x =>
    match decode x with
    | .instr i => some i
    | .reservedEventOp => none
    | .resetNotAsserted => none

end Sys2Proof
end

