-- ==== Sys2Proof/Machine/Timing.lean ====
section
/-! DEFINITION. The derived timing constants, in samples (R31). Every division rounds down (R14, D5). -/

namespace Sys2Proof.Machine

/-- `T_LONG = floor(FS / BIT_RATE)`, one full bit period (R31). -/
def tLongOf (fs : Nat) : Nat := fs / Config.bitRate

/-- `T_SHORT = floor(T_LONG / 2)`, half a bit period (R31). -/
def tShortOf (fs : Nat) : Nat := tLongOf fs / 2

/-- `ERR_LONG = max(floor(T_LONG / 4), TOL_MIN)` (R31). -/
def errLongOf (fs : Nat) : Nat := max (tLongOf fs / 4) Config.tolMin

/-- `ERR_SHORT = max(floor(T_SHORT / 2), TOL_MIN)` (R31). -/
def errShortOf (fs : Nat) : Nat := max (tShortOf fs / 2) Config.tolMin

end Sys2Proof.Machine
end

