-- ==== Sys2Proof/Machine/State.lean ====
section
/-! DEFINITION. The state of the block (R20), the records it emits (R84, R85), why a step can stop, and the
state after reset (R37). -/

namespace Sys2Proof.Machine

/-- `run` (R21). -/
inductive Run where
  | running
  | halted
deriving DecidableEq, Repr

/-- `sync`, the synchronisation state (R23). -/
inductive Sync where
  | hunting
  | locked
deriving DecidableEq, Repr

/-- BitInfo: the span and the value of one bit slot (R52). `finish` is the spec's `end`. -/
structure BitInfo where
  start : Word
  finish : Word
  value : BitValue
deriving DecidableEq, Repr

/-- The Frame record (R84). -/
structure Frame where
  first : Word
  last : Word
  idx : Word
  byte : BitVec 8
  parityOk : Bool
  stopOk : Bool
deriving DecidableEq, Repr

/-- The nine marker kinds (R85). -/
inductive MarkerKind where
  /-- `MK_PREAMBLE_BIT`, code 0. -/
  | preambleBit
  /-- `MK_START`, code 1. -/
  | start
  /-- `MK_PARITY_OK`, code 2. -/
  | parityOk
  /-- `MK_STOP_OK`, code 3. -/
  | stopOk
  /-- `MK_ERR_TIMING`, code 8. -/
  | errTiming
  /-- `MK_ERR_LENGTH`, code 9. -/
  | errLength
  /-- `MK_ERR_SKIPPED`, code 10. -/
  | errSkipped
  /-- `MK_ERR_PARITY`, code 11. -/
  | errParity
  /-- `MK_ERR_STOP`, code 12. -/
  | errStop
deriving DecidableEq, Repr

/-- The Marker record (R85). -/
structure Marker where
  kind : MarkerKind
  pos : Word
deriving DecidableEq, Repr

/-- One emitted record; Frames and Markers share one order (R230). -/
inductive Output where
  | frame (f : Frame)
  | marker (m : Marker)
deriving DecidableEq, Repr

/-- The state: the registers and stores of R20, then the model's two streams. -/
structure State where
  /-- `FS` (R30). -/
  fs : Word
  /-- `T_LONG` (R31). -/
  tLong : Word
  /-- `T_SHORT` (R31). -/
  tShort : Word
  /-- `ERR_LONG` (R31). -/
  errLong : Word
  /-- `ERR_SHORT` (R31). -/
  errShort : Word
  /-- `run` (R21). -/
  run : Run
  /-- `sync` (R23). -/
  sync : Sync
  /-- `gskip` (R24). -/
  gskip : Bool
  /-- `half` (R26). -/
  half : Bool
  /-- `ref` (R25). -/
  ref : Word
  /-- `slot_start` (R27). -/
  slotStart : Word
  /-- `i1` (R28). -/
  i1 : Word
  /-- `pkt_idx` (R29). -/
  pktIdx : Word
  /-- `PR`, the preamble run (R35, R56). -/
  pr : List Word
  /-- `BB`, the bit buffer (R34, R52). -/
  bb : List BitInfo
  /-- The MODEL's own: presentations at the input ports not yet taken, oldest first. DESIGN CHOICE, log
  entry 1: it carries the event argument of the step of R10. -/
  inputs : List Ports
  /-- The MODEL's own: the records emitted so far, oldest first. DESIGN CHOICE, log entry 2: it carries the
  output list of the step of R10; no operation reads it. -/
  outputs : List Output
deriving DecidableEq, Repr

/-- Why the machine stops with a fault. No step raises one: the spec's block never stops (R206). -/
inductive Fault where
  /-- Raised by `FA_ASSEMBLE` when `BB` does not hold exactly 11 entries: R83 and R157 give the operation
  an effect only on 11 entries. No step performs it there. Safe (log entry 7). -/
  | assembleWithoutElevenBits
deriving DecidableEq, Repr

/-- Why the machine refuses an input: the treatment `refuse` of spec file 93. -/
inductive Refusal where
  /-- An arm of `exec` without a meaning. No arm raises it now. Safe. -/
  | notModelled (mnemonic : String)
  /-- Raised by the step on an event word with `op = 0b11` (R73, U3). Safe (log entry 6). -/
  | reservedEventOp
  /-- Raised by `EDGE` and by every operation that measures an interval, when `pos` lies below `ref` (U1).
  Safe (log entry 4). -/
  | edgeBelowRef
  /-- Raised by `RST` when `cfg_fs` is below 40000 (U2). Safe (log entry 5). -/
  | unsupportedSampleRate
deriving DecidableEq, Repr

/-- The state after `RST` with the given configuration, nothing presented and nothing emitted (R37, R177). -/
def State.afterReset (cfgFs cfgStart : Word) : State where
  fs := cfgFs
  tLong := BitVec.ofNat 64 (tLongOf cfgFs.toNat)
  tShort := BitVec.ofNat 64 (tShortOf cfgFs.toNat)
  errLong := BitVec.ofNat 64 (errLongOf cfgFs.toNat)
  errShort := BitVec.ofNat 64 (errShortOf cfgFs.toNat)
  run := .running
  sync := .hunting
  gskip := false
  half := false
  ref := cfgStart
  slotStart := 0#64
  i1 := 0#64
  pktIdx := 0#64
  pr := []
  bb := []
  inputs := []
  outputs := []

/-- The machine right after reset. The spec states every field's value for given `cfg_fs` and `cfg_start`
(R37); the two given here are the model's (DESIGN CHOICE, log entry 3). -/
def State.reset : State := State.afterReset Config.resetFs Config.resetStart

end Sys2Proof.Machine
end

