-- ==== Sys2Proof/Machine/Operands.lean ====
section
/-! DEFINITION. The operands an `EDGE` event assembles (R76) and the window predicates they are tested with
(R74, R75). -/

namespace Sys2Proof.Machine

/-- `d = pos - ref`; the operations that use it refuse `pos < ref`, so it never borrows (R76). -/
def interval (pos ref : Word) : Word := pos - ref

/-- `i1 + d`, as a natural number: it needs no width (R76, R28). -/
def slotSum (s : State) (d : Nat) : Nat := s.i1.toNat + d

/-- `S(d)`: `d` lies in the closed Short window (R74). -/
def isShort (s : State) (d : Nat) : Bool :=
  decide (s.tShort.toNat - s.errShort.toNat ≤ d ∧ d ≤ s.tShort.toNat + s.errShort.toNat)

/-- `L(d)`: `d` lies in the closed Long window (R74). -/
def isLong (s : State) (d : Nat) : Bool :=
  decide (s.tLong.toNat - s.errLong.toNat ≤ d ∧ d ≤ s.tLong.toNat + s.errLong.toNat)

/-- PulseClass (R75). -/
inductive PulseClass where
  | short
  | long
  | glitch
deriving DecidableEq, Repr

/-- `class(d)`: Short has priority where the windows meet (R75). -/
def classify (s : State) (d : Nat) : PulseClass :=
  if isShort s d then .short
  else if isLong s d then .long
  else .glitch

end Sys2Proof.Machine
end

