-- ==== Sys2Proof/Machine/Flags.lean ====
section
/-! DEFINITION. The one-bit values of the block: status outputs (R33), the condition bits of the dispatch
vector (R80), the frame-assembler condition (R83) and the validity flags of a frame (R155, R156). -/

namespace Sys2Proof.Machine

/-- Status output `locked` (R33). -/
def locked (s : State) : Bool := decide (s.sync = .locked)

/-- Status output `halted` (R33). -/
def halted (s : State) : Bool := decide (s.run = .halted)

/-- The number of preamble One bits recorded, `len(PR) / 2` (R35, R56). -/
def preambleBits (s : State) : Nat := s.pr.length / 2

/-- `length_ok` (R125). -/
def lengthOk (s : State) : Bool :=
  decide (Config.preMin ≤ preambleBits s ∧ preambleBits s ≤ Config.preMax)

/-- The eight condition bits of `EDGE(pos)`, all from the state at the start of the step (R80, R170). -/
def dispatchBits (pos : Word) (s : State) : Dv where
  ht := halted s
  gs := s.gskip
  lk := locked s
  hf := s.half
  s := isShort s (interval pos s.ref).toNat
  l := isLong s (interval pos s.ref).toNat
  ls := s.half && isLong s (slotSum s (interval pos s.ref).toNat)
  pl := lengthOk s

/-- `DV` as the 8-bit vector of R80. -/
def dispatchVector (pos : Word) (s : State) : DvWord := (dispatchBits pos s).toWord

/-- `bf = (len(BB) == 11)`, taken after the append (R83). -/
def bufferFull (s : State) : FaWord := if s.bb.length = Config.frameBits then 1#1 else 0#1

/-- The value of a bit as a number (R14). -/
def bitNat : BitValue → Nat
  | .zero => 0
  | .one => 1

/-- The number of One bits among the data bits (R154). -/
def ones : List BitInfo → Nat
  | [] => 0
  | b :: rest => bitNat b.value + ones rest

/-- `expected_parity = 1 - (ones mod 2)` (R154). -/
def expectedParity (data : List BitInfo) : Nat := 1 - ones data % 2

/-- `parity_ok` (R155). -/
def parityOk (data : List BitInfo) (parity : BitInfo) : Bool :=
  decide (bitNat parity.value = expectedParity data)

/-- `stop_ok` (R156). -/
def stopOk (stop : BitInfo) : Bool := decide (stop.value = .one)

/-- `popcount(v)`: the number of 1 bits of `v` (R14). -/
def popcount (v : BitVec 8) : Nat := ((List.range 8).filter v.getLsbD).length

end Sys2Proof.Machine
end

