-- ==== Sys2Proof/Machine/Ops.lean ====
section
/-! DEFINITION. The named operations over the registers and stores, emission of records, taking an exception
(`raise`, R206) with `Invalidate` (R207), and the procedures `save_bit` (R150) and `lock` (R126) that the
operations share. -/

namespace Sys2Proof.Machine

/-! ### Register and store updates -/

/-- `run <- r` (R21). -/
def State.setRun (s : State) (r : Run) : State := { s with run := r }

/-- `sync <- y` (R23). -/
def State.setSync (s : State) (y : Sync) : State := { s with sync := y }

/-- `gskip <- b` (R24). -/
def State.setGskip (s : State) (b : Bool) : State := { s with gskip := b }

/-- `half <- b` (R26). -/
def State.setHalf (s : State) (b : Bool) : State := { s with half := b }

/-- `ref <- p` (R25). -/
def State.setRef (s : State) (p : Word) : State := { s with ref := p }

/-- `slot_start <- p; i1 <- d`: the two are written together (R27, R28). -/
def State.setSlot (s : State) (p d : Word) : State := { s with slotStart := p, i1 := d }

/-- `pkt_idx <- n` (R29). -/
def State.setPktIdx (s : State) (n : Word) : State := { s with pktIdx := n }

/-- `PR <- l` (R57). -/
def State.setPr (s : State) (l : List Word) : State := { s with pr := l }

/-- `BB <- l` (R53). -/
def State.setBb (s : State) (l : List BitInfo) : State := { s with bb := l }

/-- Takes a presentation from the input stream. -/
def State.setInputs (s : State) (l : List Ports) : State := { s with inputs := l }

/-- `emit`: append one record to the outputs (R15). -/
def State.emit (s : State) (o : Output) : State := { s with outputs := s.outputs ++ [o] }

/-- `emit Marker{kind, pos}` (R85). -/
def emitMarker (k : MarkerKind) (p : Word) (s : State) : State := s.emit (.marker ⟨k, p⟩)

/-- `append(PR, a); append(PR, b)`: the pair of one preamble bit (R56, R57). -/
def appendPair (a b : Word) (s : State) : State := s.setPr (s.pr ++ [a, b])

/-- `append(BB, b)` (R53). -/
def appendBit (b : BitInfo) (s : State) : State := s.setBb (s.bb ++ [b])

/-! ### The exception taxonomy -/

/-- The classes of R190. -/
inductive Violation where
  | timing
  | preambleLength
  | frameValidation
  | sourceExhaustion
  | cancellation
deriving DecidableEq, Repr

/-- The codes of R190; they appear on no output. -/
def Violation.code : Violation → Nat
  | .timing => 1
  | .preambleLength => 2
  | .frameValidation => 3
  | .sourceExhaustion => 4
  | .cancellation => 5

/-- The causes of R190, with the operation that raises each. -/
inductive Cause where
  /-- 1a: hunting, Short and Short, sum not Long; `H_TERR`. -/
  | huntingSum
  /-- 1b: locked, Short and Short, sum not Long; `L_TERR`. -/
  | lockedSum
  /-- 1c: locked, Short then Long; `L_TERR`. -/
  | lockedLong
  /-- 2a: direct Long, count outside 11..25; `H_LENERR`. -/
  | directLength
  /-- 2b: Short then Long, count outside 11..25; `H_LENERR2`. -/
  | strayLength
  /-- 3a: parity mismatch; `FA_ASSEMBLE`. -/
  | parityMismatch
  /-- 3b: stop bit not One; `FA_ASSEMBLE`. -/
  | stopMismatch
  /-- 4: `EOS`. -/
  | sourceExhausted
  /-- 5: `CANCEL`. -/
  | cancelled
deriving DecidableEq, Repr

/-- The class of a cause (R190). -/
def Cause.violation : Cause → Violation
  | .huntingSum => .timing
  | .lockedSum => .timing
  | .lockedLong => .timing
  | .directLength => .preambleLength
  | .strayLength => .preambleLength
  | .parityMismatch => .frameValidation
  | .stopMismatch => .frameValidation
  | .sourceExhausted => .sourceExhaustion
  | .cancelled => .cancellation

/-- The marker of a cause (R190). -/
def Cause.marker : Cause → Option MarkerKind
  | .huntingSum => some .errTiming
  | .lockedSum => some .errTiming
  | .lockedLong => some .errTiming
  | .directLength => some .errLength
  | .strayLength => some .errLength
  | .parityMismatch => some .errParity
  | .stopMismatch => some .errStop
  | .sourceExhausted => none
  | .cancelled => none

/-- `Invalidate()`: back to Hunting, preamble run and bit buffer cleared, the pending half dropped; nothing
is saved and nothing else changes (R207). -/
def invalidate (s : State) : State := (((s.setSync .hunting).setPr []).setBb []).setHalf false

/-- The end of the run: partial bits discarded, `run <- Halted` (R173, R203, R204). -/
def haltRun (s : State) : State := (s.setBb []).setRun .halted

/-- What a class does to the state: R200 and R201 invalidate, R202 changes nothing, R203 and R204 halt. -/
def Violation.effect : Violation → State → State
  | .timing, s => invalidate s
  | .preambleLength, s => invalidate s
  | .frameValidation, s => s
  | .sourceExhaustion, s => haltRun s
  | .cancellation, s => haltRun s

/-- Emits the marker of a cause, if it has one, keyed by `p` (R190). -/
def emitCause (c : Cause) (p : Word) (s : State) : State :=
  match c.marker with
  | some k => emitMarker k p s
  | none => s

/-- TAKING AN EXCEPTION, `raise <Exception>(p)`: the entry rule of the cause, in the same step: first its
marker at `p`, then its effect (R200 to R206). There is no return: the block hunts on, and `lock` is the way
back (R209). -/
def raise (c : Cause) (p : Word) (s : State) : State := c.violation.effect (emitCause c p s)

/-! ### Frame assembly -/

/-- The roles of the 11 entries (R152). -/
structure FrameParts where
  start : BitInfo
  data : List BitInfo
  parity : BitInfo
  stop : BitInfo
deriving DecidableEq, Repr

/-- `start_bit = BB[0]`, `data[i] = BB[1 + i]`, `parity_bit = BB[9]`, `stop_bit = BB[10]`, for a buffer of
exactly 11 entries (R152). -/
def frameParts? : List BitInfo → Option FrameParts
  | [b0, b1, b2, b3, b4, b5, b6, b7, b8, b9, b10] => some ⟨b0, [b1, b2, b3, b4, b5, b6, b7, b8], b9, b10⟩
  | _ => none

/-- A bit value as a byte, to be shifted into place (R153). -/
def bitByte : BitValue → BitVec 8
  | .zero => 0#8
  | .one => 1#8

/-- OR of the data bits, each shifted left by its index, the first having index `i` (R153). -/
def payloadFrom (i : Nat) : List BitInfo → BitVec 8
  | [] => 0#8
  | b :: rest => (bitByte b.value <<< i) ||| payloadFrom (i + 1) rest

/-- `payload_byte` (R153). -/
def payloadByte (data : List BitInfo) : BitVec 8 := payloadFrom 0 data

/-- The Frame record of the parts, with the byte index (R157). -/
def frameRecord (f : FrameParts) (idx : Word) : Frame where
  first := f.start.start
  last := f.stop.finish - 1#64
  idx := idx
  byte := payloadByte f.data
  parityOk := parityOk f.data f.parity
  stopOk := stopOk f.stop

/-- The parity marker: `MK_PARITY_OK`, or the entry of a parity mismatch (R157, R202). -/
def markParity (f : FrameParts) (s : State) : State :=
  if parityOk f.data f.parity then emitMarker .parityOk f.parity.start s
  else raise .parityMismatch f.parity.start s

/-- The stop marker: `MK_STOP_OK`, or the entry of a stop mismatch (R157, R202). -/
def markStop (f : FrameParts) (s : State) : State :=
  if stopOk f.stop then emitMarker .stopOk f.stop.start s
  else raise .stopMismatch f.stop.start s

/-- The pseudocode of `FA_ASSEMBLE` on the parts of a full buffer: three markers, the Frame with the index
before the increment, then `pkt_idx <- pkt_idx + 1; BB <- []` (R157). -/
def assemble (f : FrameParts) (s : State) : State :=
  (((markStop f (markParity f (emitMarker .start f.start.start s))).emit
    (.frame (frameRecord f s.pktIdx))).setPktIdx (s.pktIdx + 1#64)).setBb []

/-- `save_bit(b)`: append, then `FA_ASSEMBLE` if the buffer has 11 entries, else `FA_SAVE`, which does
nothing more (R150, R151, R157). `frameParts?` answers exactly for 11 entries. -/
def saveBit (b : BitInfo) (s : State) : State :=
  match frameParts? (appendBit b s).bb with
  | some f => assemble f (appendBit b s)
  | none => appendBit b s

/-- `lock(b)`: `sync <- Locked; pkt_idx <- 0; save_bit(b)` (R126). -/
def lock (b : BitInfo) (s : State) : State := saveBit b ((s.setSync .locked).setPktIdx 0#64)

/-! ### Shapes the operations share -/

/-- An operation that measures the interval of its event: `pos` below `ref` is refused (U1); otherwise the
operation has its effect on `d = pos - ref` (R76, R101). -/
def measured (pos : Word) (s : State) (effect : Word → State) :
    Host.Outcome State Fault Refusal :=
  if pos.toNat < s.ref.toNat then .refused .edgeBelowRef
  else .next (effect (interval pos s.ref))

/-- The first interval of a slot is Short: `slot_start <- r; i1 <- d; ref <- pos; half <- 1` (R121, R141). -/
def startSlot (pos d : Word) (s : State) : State := ((s.setSlot s.ref d).setRef pos).setHalf true

/-- The stray Short before a terminating Long, and its long interval taken: the marker, `ref <- pos`,
`half <- 0` (R124, R129, R205). -/
def skipShort (pos : Word) (s : State) : State :=
  ((emitMarker .errSkipped s.slotStart s).setRef pos).setHalf false

/-- Lock path 2: the Long from the old `ref` is the start bit (R124). -/
def lockOnSecond (pos : Word) (s : State) : State := lock ⟨s.ref, pos, .zero⟩ (skipShort pos s)

/-- Failure on lock path 2: the violation at the old `ref` (R129). -/
def rejectOnSecond (pos : Word) (s : State) : State := raise .strayLength s.ref (skipShort pos s)

/-- A slot that failed: `ref <- pos`, then the violation at `slot_start` (R127, R145). -/
def failSlot (c : Cause) (pos : Word) (s : State) : State := raise c s.slotStart (s.setRef pos)

/-- `EOS` and `CANCEL` have one pseudocode: only a running block takes the entry (R173, R175). -/
def endRun (c : Cause) (s : State) : State :=
  if halted s then s else raise c s.ref s

end Sys2Proof.Machine
end

