-- ==== Sys2Proof/Machine/BitDecode.lean ====
section
/-! DEFINITION. Steady-state bit decode once locked (spec file 42). -/

namespace Sys2Proof.Machine

/-- `L_SHORT1` (R141). -/
def execLShort1 (pos : Word) (s : State) : Host.Outcome State Fault Refusal :=
  measured pos s fun d => startSlot pos d s

/-- `L_ZERO`: a direct Long is a bit Zero (R142). -/
def execLZero (pos : Word) (s : State) : Host.Outcome State Fault Refusal :=
  measured pos s fun _ => saveBit ⟨s.ref, pos, .zero⟩ (s.setRef pos)

/-- `L_ONE`: two Shorts summing to Long are a bit One from `slot_start` (R143). -/
def execLOne (pos : Word) (s : State) : Host.Outcome State Fault Refusal :=
  measured pos s fun _ => saveBit ⟨s.slotStart, pos, .one⟩ ((s.setRef pos).setHalf false)

/-- `L_TERR`, Short then Long (R145). -/
def execLTerrLong (pos : Word) (s : State) : Host.Outcome State Fault Refusal :=
  measured pos s fun _ => failSlot .lockedLong pos s

/-- `L_TERR`, Short and Short whose sum is not Long (R145). -/
def execLTerrSum (pos : Word) (s : State) : Host.Outcome State Fault Refusal :=
  measured pos s fun _ => failSlot .lockedSum pos s

end Sys2Proof.Machine
end

