-- ==== Sys2Proof/Machine/Classifier.lean ====
section
/-! DEFINITION. TimingClassifier: glitch absorption (spec file 40). -/

namespace Sys2Proof.Machine

/-- `E_GLITCH`: the interval is in neither window; `ref` does not move and no record is emitted (R103). -/
def execEGlitch (pos : Word) (s : State) : Host.Outcome State Fault Refusal :=
  measured pos s fun _ => s.setGskip true

/-- `E_GSKIP`: the edge is consumed without being measured; `pos` is not used (R104). -/
def execEGskip (_pos : Word) (s : State) : Host.Outcome State Fault Refusal :=
  .next (s.setGskip false)

end Sys2Proof.Machine
end

