-- ==== Sys2Proof/Machine/Synchronizer.lean ====
section
/-! DEFINITION. Synchronizer: the preamble hunt and the two lock paths (spec file 41). -/

namespace Sys2Proof.Machine

/-- `H_SHORT1` (R121). -/
def execHShort1 (pos : Word) (s : State) : Host.Outcome State Fault Refusal :=
  measured pos s fun d => startSlot pos d s

/-- `H_ONE`: the pair goes into `PR`, the bit is marked, the hunt goes on (R122). -/
def execHOne (pos : Word) (s : State) : Host.Outcome State Fault Refusal :=
  measured pos s fun _ =>
    ((emitMarker .preambleBit s.slotStart (appendPair s.slotStart pos s)).setRef pos).setHalf false

/-- `H_LOCK`: lock path 1, the direct Long is the start bit (R123). -/
def execHLock (pos : Word) (s : State) : Host.Outcome State Fault Refusal :=
  measured pos s fun _ => lock ⟨s.ref, pos, .zero⟩ (s.setRef pos)

/-- `H_LENERR`: direct Long, preamble length out of range (R128). -/
def execHLenerr (pos : Word) (s : State) : Host.Outcome State Fault Refusal :=
  measured pos s fun _ => raise .directLength s.ref (s.setRef pos)

/-- `H_LOCK2`, second interval Long only (R124). -/
def execHLock2 (pos : Word) (s : State) : Host.Outcome State Fault Refusal :=
  measured pos s fun _ => lockOnSecond pos s

/-- `H_LOCK2`, second interval in both windows and sum not Long (R124). -/
def execHLock2Shared (pos : Word) (s : State) : Host.Outcome State Fault Refusal :=
  measured pos s fun _ => lockOnSecond pos s

/-- `H_LENERR2`, second interval Long only (R129). -/
def execHLenerr2 (pos : Word) (s : State) : Host.Outcome State Fault Refusal :=
  measured pos s fun _ => rejectOnSecond pos s

/-- `H_LENERR2`, second interval in both windows and sum not Long (R129). -/
def execHLenerr2Shared (pos : Word) (s : State) : Host.Outcome State Fault Refusal :=
  measured pos s fun _ => rejectOnSecond pos s

/-- `H_TERR`: Short and Short whose sum is not Long (R127). -/
def execHTerr (pos : Word) (s : State) : Host.Outcome State Fault Refusal :=
  measured pos s fun _ => failSlot .huntingSum pos s

end Sys2Proof.Machine
end

