-- ==== Sys2Proof/Machine/Control.lean ====
section
/-! DEFINITION. Events and control: `EDGE` dispatch, `E_HALT`, `EOS`, `CANCEL`, `RST` (spec file 44). -/

namespace Sys2Proof.Machine

/-- `E_HALT`: the edge is ignored (R171). -/
def execEHalt (_pos : Word) (s : State) : Host.Outcome State Fault Refusal := .next s

/-- Performs the operation of a dispatch row on the event's position (R170). -/
def perform (op : DvOp) (pos : Word) (s : State) : Host.Outcome State Fault Refusal :=
  match op with
  | .eHalt => execEHalt pos s
  | .eGskip => execEGskip pos s
  | .eGlitch => execEGlitch pos s
  | .hShort1 => execHShort1 pos s
  | .hLock => execHLock pos s
  | .hLenerr => execHLenerr pos s
  | .hOne => execHOne pos s
  | .hLock2 => execHLock2 pos s
  | .hLock2Shared => execHLock2Shared pos s
  | .hLenerr2 => execHLenerr2 pos s
  | .hLenerr2Shared => execHLenerr2Shared pos s
  | .hTerr => execHTerr pos s
  | .lShort1 => execLShort1 pos s
  | .lZero => execLZero pos s
  | .lOne => execLOne pos s
  | .lTerrLong => execLTerrLong pos s
  | .lTerrSum => execLTerrSum pos s

/-- `EDGE(pos)`: compute the dispatch vector, perform the one operation whose pattern matches (R170). With
`ht` or `gs` set the other bits do not matter, so `pos` below `ref` is refused only by the operations that
measure (U1). -/
def execEdge (pos : Word) (s : State) : Host.Outcome State Fault Refusal :=
  perform (selectRow (dispatchBits pos s)) pos s

/-- `EOS` (R173). -/
def execEos (s : State) : Host.Outcome State Fault Refusal := .next (endRun .sourceExhausted s)

/-- `CANCEL` (R175). -/
def execCancel (s : State) : Host.Outcome State Fault Refusal := .next (endRun .cancelled s)

/-- `RST`: every register and both stores take the values of R37; nothing is emitted and what was emitted
stays emitted (R177, R220). An unsupported rate is refused (U2). -/
def execRst (cfgFs cfgStart : Word) (s : State) : Host.Outcome State Fault Refusal :=
  if supportedRate cfgFs then
    .next { State.afterReset cfgFs cfgStart with inputs := s.inputs, outputs := s.outputs }
  else .refused .unsupportedSampleRate

end Sys2Proof.Machine
end

