-- ==== Sys2Proof/Machine/FrameAssembler.lean ====
section
/-! DEFINITION. FrameAssembler: the two outcomes of `save_bit` as operations of their own (spec file 43).
`save_bit` itself is the shared operation of Machine/Ops.lean. -/

namespace Sys2Proof.Machine

/-- `FA_SAVE`: nothing more happens (R151). -/
def execFaSave (s : State) : Host.Outcome State Fault Refusal := .next s

/-- `FA_ASSEMBLE` on a buffer of 11 entries (R157). On any other buffer the spec gives it no effect (R83). -/
def execFaAssemble (s : State) : Host.Outcome State Fault Refusal :=
  match frameParts? s.bb with
  | some f => .next (assemble f s)
  | none => .fault .assembleWithoutElevenBits

end Sys2Proof.Machine
end

