-- ==== Sys2Proof/Machine/Dispatch.lean ====
section
/-! DEFINITION. One arm per operation. -/

namespace Sys2Proof.Machine

def exec (i : Instr) (s : State) : Host.Outcome State Fault Refusal :=
  match i with
  | .eHalt pos => Sys2Proof.Machine.execEHalt pos s
  | .eGskip pos => Sys2Proof.Machine.execEGskip pos s
  | .eGlitch pos => Sys2Proof.Machine.execEGlitch pos s
  | .hShort1 pos => Sys2Proof.Machine.execHShort1 pos s
  | .hLock pos => Sys2Proof.Machine.execHLock pos s
  | .hLenerr pos => Sys2Proof.Machine.execHLenerr pos s
  | .hOne pos => Sys2Proof.Machine.execHOne pos s
  | .hLock2 pos => Sys2Proof.Machine.execHLock2 pos s
  | .hLock2Shared pos => Sys2Proof.Machine.execHLock2Shared pos s
  | .hLenerr2 pos => Sys2Proof.Machine.execHLenerr2 pos s
  | .hLenerr2Shared pos => Sys2Proof.Machine.execHLenerr2Shared pos s
  | .hTerr pos => Sys2Proof.Machine.execHTerr pos s
  | .lShort1 pos => Sys2Proof.Machine.execLShort1 pos s
  | .lZero pos => Sys2Proof.Machine.execLZero pos s
  | .lOne pos => Sys2Proof.Machine.execLOne pos s
  | .lTerrLong pos => Sys2Proof.Machine.execLTerrLong pos s
  | .lTerrSum pos => Sys2Proof.Machine.execLTerrSum pos s
  | .edge pos => Sys2Proof.Machine.execEdge pos s
  | .eos => Sys2Proof.Machine.execEos s
  | .cancel => Sys2Proof.Machine.execCancel s
  | .rst cfgFs cfgStart => Sys2Proof.Machine.execRst cfgFs cfgStart s
  | .faSave => Sys2Proof.Machine.execFaSave s
  | .faAssemble => Sys2Proof.Machine.execFaAssemble s

end Sys2Proof.Machine
end

