-- ==== Sys2Proof/Machine/Staging.lean ====
section
/-! DEFINITION. The states in which a bare table word comes out as the first operation (log entry 10): they
serve `State.withFetchWord` and nothing else. -/

namespace Sys2Proof.Machine

/-- The constants of `FS = 4000000`, for which the staged intervals have their classes. -/
def stageConstants (s : State) : State :=
  { s with
    fs := 4000000#64
    tLong := BitVec.ofNat 64 (tLongOf 4000000)
    tShort := BitVec.ofNat 64 (tShortOf 4000000)
    errLong := BitVec.ofNat 64 (errLongOf 4000000)
    errShort := BitVec.ofNat 64 (errShortOf 4000000) }

/-- A state whose dispatch vector for `EDGE(stagedPos v)` is `v` (R80). -/
def stageDv (v : Dv) (s : State) : State :=
  { stageConstants s with
    run := if v.ht then .halted else .running
    sync := if v.lk then .locked else .hunting
    gskip := v.gs
    half := v.hf
    ref := BitVec.ofNat 64 stagedRef
    slotStart := BitVec.ofNat 64 (stagedRef - stagedFirst v)
    i1 := BitVec.ofNat 64 (stagedFirst v)
    pr := if v.pl then List.replicate (2 * Config.preMin) 0#64 else [] }

/-- A bit of the staged buffer. -/
def stagedBit : BitInfo := ⟨0#64, 1#64, .zero⟩

/-- The vector of a `L_ZERO`, which saves a bit (R142). -/
def stagedSaving : Dv :=
  { ht := false, gs := false, lk := true, hf := false, s := false, l := true, ls := false, pl := true }

/-- A state in which the next `EDGE` saves a bit and the condition `FA` comes out as given (R83): the buffer
is empty for `FA_SAVE` and has ten entries for `FA_ASSEMBLE`. -/
def stageFa (op : FaOp) (s : State) : State :=
  { stageDv stagedSaving s with
    bb := match op with
      | .faSave => []
      | .faAssemble => List.replicate 10 stagedBit }

/-- Presents the word of a table row: an event or a reset at the ports, or, for a row that only an `EDGE`
performs, the state in which that `EDGE` performs it. -/
def present (w : OpWord) (s : State) : State :=
  match w with
  | .ev x => { s with inputs := Ports.ofEvent x :: s.inputs }
  | .sig rst cfgFs cfgStart =>
    { s with inputs := { Ports.ofReset cfgFs cfgStart with rst := decide (rst = 1#1) } :: s.inputs }
  | .dv v pos => { stageDv (Dv.ofWord v) s with inputs := Ports.ofEvent (evWord 0#2 pos) :: s.inputs }
  | .fa bf =>
    { stageFa (decodeFa bf) s with
      inputs := Ports.ofEvent (evWord 0#2 (stagedPos stagedSaving)) :: s.inputs }

end Sys2Proof.Machine
end

