-- ==== Sys2Proof/Machine/Step.lean ====
section
/-! DEFINITION. One step: take the oldest presentation and do what it asks for (R10, R62, R178). -/

namespace Sys2Proof.Machine

/-- With nothing presented the block holds its state (R109, R180, R219). Otherwise the oldest presentation is
taken: nothing asked for, hold; an operation, perform it; the reserved `op`, refuse (R73). -/
def step (s : State) : Host.Outcome State Fault Refusal :=
  match s.inputs with
  | [] => .next s
  | p :: rest =>
    match fetch p with
    | .idle => .next (s.setInputs rest)
    | .instr i => exec i (s.setInputs rest)
    | .reservedEventOp => .refused .reservedEventOp

/-- The state in which the very next step runs the operation of a table row's word (log entry 10). -/
def State.withFetchWord (s : State) (nbits w : Nat) : State :=
  match OpWord.ofTable nbits w with
  | none => s
  | some x => present x s

end Sys2Proof.Machine
end

