-- ==== Sys2Proof/Machine/Records.lean ====
section
/-! DEFINITION. The packed layouts of the output records (R84, R85) and their reading back. -/

namespace Sys2Proof.Machine

/-- `frame[201:0]`: `first`, `last`, `idx`, `byte`, `parity_ok`, `stop_ok`, `first` most significant (R84). -/
def Frame.pack (f : Frame) : FrameWord :=
  f.first ++ f.last ++ f.idx ++ f.byte ++ BitVec.ofBool f.parityOk ++ BitVec.ofBool f.stopOk

/-- The fields of a Frame word, by the bit numbers of R84. -/
def Frame.unpack (w : FrameWord) : Frame where
  first := w.extractLsb' 138 64
  last := w.extractLsb' 74 64
  idx := w.extractLsb' 10 64
  byte := w.extractLsb' 2 8
  parityOk := w.getLsbD 1
  stopOk := w.getLsbD 0

/-- The code of a marker kind (R85). -/
def MarkerKind.code : MarkerKind → BitVec 4
  | .preambleBit => 0#4
  | .start => 1#4
  | .parityOk => 2#4
  | .stopOk => 3#4
  | .errTiming => 8#4
  | .errLength => 9#4
  | .errSkipped => 10#4
  | .errParity => 11#4
  | .errStop => 12#4

/-- The kind of a code; codes 4 to 7 and 13 to 15 are reserved (R86). -/
def MarkerKind.ofCode? (c : BitVec 4) : Option MarkerKind :=
  if c = 0#4 then some .preambleBit
  else if c = 1#4 then some .start
  else if c = 2#4 then some .parityOk
  else if c = 3#4 then some .stopOk
  else if c = 8#4 then some .errTiming
  else if c = 9#4 then some .errLength
  else if c = 10#4 then some .errSkipped
  else if c = 11#4 then some .errParity
  else if c = 12#4 then some .errStop
  else none

/-- Bit 3 of the code is set exactly for the error kinds (R85). -/
def MarkerKind.isError (k : MarkerKind) : Bool := k.code.getLsbD 3

/-- `marker[67:0]`: `kind` in bits 67:64, `pos` in bits 63:0 (R85). -/
def Marker.pack (m : Marker) : MarkerWord := m.kind.code ++ m.pos

/-- The fields of a Marker word, none for a reserved code (R85, R86). -/
def Marker.unpack? (w : MarkerWord) : Option Marker :=
  match MarkerKind.ofCode? (w.extractLsb' 64 4) with
  | some k => some ⟨k, w.extractLsb' 0 64⟩
  | none => none

/-- The Frame of an output record, if it is one. -/
def Output.frame? : Output → Option Frame
  | .frame f => some f
  | .marker _ => none

/-- The Marker of an output record, if it is one. -/
def Output.marker? : Output → Option Marker
  | .frame _ => none
  | .marker m => some m

/-- The Frame stream, in emission order (R12). -/
def frameStream (s : State) : List Frame := s.outputs.filterMap Output.frame?

/-- The Marker stream, in emission order (R12). -/
def markerStream (s : State) : List Marker := s.outputs.filterMap Output.marker?

end Sys2Proof.Machine
end

