-- ==== Sys2Proof/Machine/Ports.lean ====
section
/-! DEFINITION. The output ports of R89, and the serialisation of separate wires (R178). The ports are
informative: no operation reads them. -/

namespace Sys2Proof.Machine

/-- The output ports of R89: `frame` is present when `frame_valid` is 1; the marker list holds the `mk_count`
records `mk0`, `mk1`, `mk2` in emission order. What an absent record's wires carry is not in the spec and is
not represented. -/
structure OutPorts where
  frame : Option FrameWord
  markers : List MarkerWord
  locked : Bool
  halted : Bool
  pktIdx : Word
deriving DecidableEq, Repr

/-- The records a step emitted: what was appended to the outputs (R10). -/
def newOutputs (before after : State) : List Output := after.outputs.drop before.outputs.length

/-- The output ports after a step (R89). -/
def outPorts (before after : State) : OutPorts where
  frame := ((newOutputs before after).filterMap Output.frame?).head?.map Frame.pack
  markers := ((newOutputs before after).filterMap Output.marker?).map Marker.pack
  locked := locked after
  halted := halted after
  pktIdx := after.pktIdx

/-- The event words for separate `cancel` and `eos` wires and an edge that coincide: `CANCEL` before `EOS`
before `EDGE` (R178). -/
def serialise (cancel eos : Bool) (edge : Option Word) : List EvWord :=
  (if cancel then [evWord 2#2 0#64] else []) ++
    (if eos then [evWord 1#2 0#64] else []) ++
      (match edge with
        | some pos => [evWord 0#2 pos]
        | none => [])

end Sys2Proof.Machine
end

