-- ==== Sys2Proof/Machine/Trace.lean ====
section
/-! DEFINITION. The trace notation of R90 and the pseudo-operations of R91: a way to write event streams,
expanded into presentations at the ports. It is a notation, not a part of the block (R5 item d). -/

namespace Sys2Proof.Machine

/-- The items of R90 and R91. -/
inductive TraceItem where
  /-- `RST fs=<n> start=<n>`. -/
  | rst (fs start : Nat)
  /-- `E <n>`. -/
  | e (n : Nat)
  /-- `+<n>`. -/
  | plus (n : Nat)
  /-- `EOS`. -/
  | eos
  /-- `CANCEL`. -/
  | cancel
  /-- `S`. -/
  | short
  /-- `L`. -/
  | long
  /-- `ONE`. -/
  | one
  /-- `ZERO`. -/
  | zero
  /-- `BIT b`. -/
  | bit (b : BitValue)
  /-- `PRE <n>`. -/
  | pre (n : Nat)
  /-- `BITS b0 b1 ... bk`. -/
  | bits (bs : List BitValue)
  /-- `BYTE <v>`. -/
  | byte (v : BitVec 8)
  /-- `BYTEX <v> p=<q> t=<u> s=<w>`, each key optional. -/
  | bytex (v : BitVec 8) (p t s : Option BitValue)
  /-- `x*<n>`. -/
  | rep (x : TraceItem) (n : Nat)
deriving DecidableEq, Repr

/-- The variables of the notation: `last` and the constants of the trace's `fs` (R90, R91). -/
structure TraceEnv where
  last : Nat
  tShort : Nat
  tLong : Nat
deriving DecidableEq, Repr

/-- Bit values from booleans. -/
def bitOf (b : Bool) : BitValue := if b then .one else .zero

/-- The wire bits of a frame with the given start, parity and stop (R91). -/
def wireBits (v : BitVec 8) (start parity stop : BitValue) : List BitValue :=
  start :: ((List.range 8).map fun i => bitOf (v.getLsbD i)) ++ [parity, stop]

/-- `q = 1 - (popcount(v) mod 2)` (R91). -/
def oddParity (v : BitVec 8) : BitValue :=
  bitOf (((List.range 8).filter v.getLsbD).length % 2 == 0)

/-- The presentation of one `EDGE`. DESIGN CHOICE (log entry 13, unsafe for a claim about such an
item): a position that does not fit 64 bits (U6) is presented modulo `2^64`. -/
def edgeAt (n : Nat) : Ports := Ports.ofEvent (evWord 0#2 (BitVec.ofNat 64 n))

/-- `+<n>`: the edge at `last + n`. -/
def traceStep (n : Nat) (t : TraceEnv) : List Ports × TraceEnv :=
  ([edgeAt (t.last + n)], { t with last := t.last + n })

/-- One expansion after another. -/
def traceSeq (f g : TraceEnv → List Ports × TraceEnv) (t : TraceEnv) : List Ports × TraceEnv :=
  ((f t).1 ++ (g (f t).2).1, (g (f t).2).2)

/-- An expansion repeated. -/
def traceRep (f : TraceEnv → List Ports × TraceEnv) : Nat → TraceEnv → List Ports × TraceEnv
  | 0, t => ([], t)
  | n + 1, t => traceSeq f (traceRep f n) t

/-- `BIT b`: `L` for a Zero, `S S` for a One (R91). -/
def traceBit : BitValue → TraceEnv → List Ports × TraceEnv
  | .zero, t => traceStep t.tLong t
  | .one, t => traceSeq (traceStep t.tShort) (traceStep t.tShort) t

/-- `BITS` (R91). -/
def traceBits : List BitValue → TraceEnv → List Ports × TraceEnv
  | [], t => ([], t)
  | b :: rest, t => traceSeq (traceBit b) (traceBits rest) t

/-- The expansion of an item (R90, R91). DESIGN CHOICE (log entry 13, unsafe for a claim about such an item): U6
calls a position or a `cfg_fs` of `2^64` or more not expressible. Here `fs`, `start` and the positions are presented
at the ports modulo `2^64`, while `last`, and `T_SHORT` and `T_LONG` of an `RST fs=<n>`, come from the numbers as
written. -/
def expand : TraceItem → TraceEnv → List Ports × TraceEnv
  | .rst fs start, _ =>
    ([Ports.ofReset (BitVec.ofNat 64 fs) (BitVec.ofNat 64 start)], ⟨start, tShortOf fs, tLongOf fs⟩)
  | .e n, t => ([edgeAt n], { t with last := n })
  | .plus n, t => traceStep n t
  | .eos, t => ([Ports.ofEvent (evWord 1#2 0#64)], t)
  | .cancel, t => ([Ports.ofEvent (evWord 2#2 0#64)], t)
  | .short, t => traceStep t.tShort t
  | .long, t => traceStep t.tLong t
  | .one, t => traceBit .one t
  | .zero, t => traceBit .zero t
  | .bit b, t => traceBit b t
  | .pre n, t => traceRep (traceBit .one) n t
  | .bits bs, t => traceBits bs t
  | .byte v, t => traceBits (wireBits v .zero (oddParity v) .one) t
  | .bytex v p q s, t =>
    traceBits (wireBits v (s.getD .zero) (p.getD (oddParity v)) (q.getD .one)) t
  | .rep x n, t => traceRep (expand x) n t

/-- The expansion of a whole trace. -/
def expandAll : List TraceItem → TraceEnv → List Ports × TraceEnv
  | [], t => ([], t)
  | x :: rest, t => traceSeq (expand x) (expandAll rest) t

end Sys2Proof.Machine
end

