-- ==== Sys2Proof/Safety.lean ====
section
/-! DEFINITION. What the environment promises (R72, R224), and the invariants of the block between steps (R39,
R54, R131), and ways to run it, in the terms the statements use. -/

namespace Sys2Proof.Machine

/-! ### Running the block -/

/-- `n` steps, stopping at the first fault or refusal. -/
def runSteps : Nat → State → Host.Outcome State Fault Refusal
  | 0, s => .next s
  | n + 1, s =>
    match step s with
    | .next t => runSteps n t
    | .fault r => .fault r
    | .refused r => .refused r

/-- The edges of a stream delivered one after another, stopping at the first fault or refusal. -/
def deliver : List Word → State → Host.Outcome State Fault Refusal
  | [], s => .next s
  | p :: rest, s =>
    match exec (.edge p) s with
    | .next t => deliver rest t
    | .fault r => .fault r
    | .refused r => .refused r

/-- The trace environment that goes on from the state: the last position is `ref`, the constants are the
state's (R90, R91). -/
def traceEnv (s : State) : TraceEnv := ⟨s.ref.toNat, s.tShort.toNat, s.tLong.toNat⟩

/-- The block runs, no edge is being skipped and no slot is half received. -/
structure BetweenSlots (s : State) : Prop where
  run : s.run = .running
  gskip : s.gskip = false
  half : s.half = false

/-- The next edge is measured: the block runs and no edge is being skipped (R101). -/
structure Measuring (s : State) : Prop where
  run : s.run = .running
  gskip : s.gskip = false

/-- No reset is asked for by the presentation the next step takes. -/
def noReset (s : State) : Prop := ∀ p, s.inputs.head? = some p → p.rst = false

/-! ### The environment's promise -/

/-- The promise of the environment over a stream of presentations, from a position no edge may lie below:
positions never decrease, a reset names a supported rate and starts again at its `cfg_start`, the reserved
`op` is never sent (R72, R73, R224). -/
def legalFrom (last : Nat) : List Ports → Bool
  | [] => true
  | p :: rest =>
    match fetch p with
    | .idle => legalFrom last rest
    | .reservedEventOp => false
    | .instr (.rst cfgFs cfgStart) => supportedRate cfgFs && legalFrom cfgStart.toNat rest
    | .instr (.edge pos) => decide (last ≤ pos.toNat) && legalFrom pos.toNat rest
    | .instr _ => legalFrom last rest

/-- The presentations still to come keep the promise from the reference position on. -/
def LegalInputs (s : State) : Prop := legalFrom s.ref.toNat s.inputs = true

/-! ### Invariants -/

/-- The constants are those of R31 for a supported `FS` (R39 item 8). -/
structure ConstantsOk (s : State) : Prop where
  supported : Config.fsMin ≤ s.fs.toNat
  tLong : s.tLong.toNat = tLongOf s.fs.toNat
  tShort : s.tShort.toNat = tShortOf s.fs.toNat
  errLong : s.errLong.toNat = errLongOf s.fs.toNat
  errShort : s.errShort.toNat = errShortOf s.fs.toNat

/-- The invariants of R39, items 1 to 5, 7 and 8. -/
structure Inv (s : State) : Prop where
  /-- Item 1. -/
  huntingEmpty : s.sync = .hunting → s.bb = []
  /-- Item 2. -/
  bufferBound : s.bb.length ≤ 10
  /-- Item 3. -/
  preambleEven : s.pr.length % 2 = 0
  /-- Item 4. -/
  halfShort : s.half = true →
    isShort s s.i1.toNat = true ∧ s.ref.toNat = s.slotStart.toNat + s.i1.toNat
  /-- Item 5. -/
  lockedLength : s.sync = .locked → Config.preMin ≤ preambleBits s ∧ preambleBits s ≤ Config.preMax
  /-- Item 7. -/
  haltedEmpty : s.run = .halted → s.bb = []
  /-- Item 8. -/
  constants : ConstantsOk s

/-- Where the bit slot in progress began (R26). -/
def slotOrigin (s : State) : Word := if s.half then s.slotStart else s.ref

/-- Where a run of bits begins, or where what follows it begins. -/
def runStart : List BitInfo → Word → Word
  | [], e => e
  | b :: _, _ => b.start

/-- The bits are non-empty spans that abut and end at `e` (R52, R54). -/
def tiles : List BitInfo → Word → Bool
  | [], _ => true
  | b :: rest, e =>
    decide (b.start.toNat < b.finish.toNat) && decide (b.finish = runStart rest e) && tiles rest e

/-- Where a run of preamble pairs begins, or where what follows it begins. -/
def pairStart : List Word → Word → Word
  | [], e => e
  | a :: _, _ => a

/-- The pairs are non-empty spans that abut and end at `e` (R131). -/
def pairsTile : List Word → Word → Bool
  | [], _ => true
  | [_], _ => false
  | a :: b :: rest, e =>
    decide (a.toNat < b.toNat) && decide (b = pairStart rest e) && pairsTile rest e

/-- The buffered bits tile the samples up to the slot in progress, and while hunting so do the recorded
preamble bits (R54, R131 item b). -/
structure Tiling (s : State) : Prop where
  buffer : tiles s.bb (slotOrigin s) = true
  preamble : s.sync = .hunting → pairsTile s.pr (slotOrigin s) = true

end Sys2Proof.Machine
end

