-- ==== Sys2Proof/Certificates/Slice0/Obligations.lean ====
section
/-! DEFINITION. The statements for the provers. A measured interval is written `pos = ref + d` over the natural
numbers (R76); a next state is written as the whole record, so that every field not named keeps its value. -/

section
open Sys2Proof Sys2Proof.Machine

/-! ### Encodings -/

/-- R71, R80, R81, R83, R177: an operation is read back from its word, with every operand. -/
def Obligations.DecodeEncode : Prop :=
  ∀ i : Instr, decode (encode i) = .instr i

/-- R71: bits 65:64 select the event, bits 63:0 are the position of an `EDGE` and are ignored for `EOS` and
`CANCEL`. The refusal of `op = 0b11` is U3's treatment (log entry 6). -/
def Obligations.EventWordLayout : Prop :=
  ∀ w : EvWord,
    (w.toNat / 2 ^ 64 = 0 → decode (.ev w) = .instr (.edge (BitVec.ofNat 64 (w.toNat % 2 ^ 64)))) ∧
    (w.toNat / 2 ^ 64 = 1 → decode (.ev w) = .instr .eos) ∧
    (w.toNat / 2 ^ 64 = 2 → decode (.ev w) = .instr .cancel) ∧
    (w.toNat / 2 ^ 64 = 3 → decode (.ev w) = .reservedEventOp)

/-- Words written out from R71, R81 and R83 decode to the operations they stand for. -/
def Obligations.WrittenWordsDecode : Prop :=
  decode (.ev 0x000000000000002710#66) = .instr (.edge 10000#64) ∧
  decode (.ev 0x10000000000000000#66) = .instr .eos ∧
  decode (.ev 0x20000000000000000#66) = .instr .cancel ∧
  decode (.dv 0b00011010#8 2000#64) = .instr (.hOne 2000#64) ∧
  decode (.dv 0b00011101#8 2000#64) = .instr (.hLock2Shared 2000#64) ∧
  decode (.dv 0b00100100#8 2000#64) = .instr (.lZero 2000#64) ∧
  decode (.sig 1#1 46000#64 7#64) = .instr (.rst 46000#64 7#64) ∧
  decode (.fa 0b1#1) = .instr .faAssemble

/-- R82: every value of `DV` matches exactly one row of the table, and the decoder gives that row. -/
def Obligations.DispatchTableComplete : Prop :=
  ∀ v : DvWord,
    (dvTable.filter fun r => r.accepts v).length = 1 ∧
    ∀ r ∈ dvTable, r.accepts v = true → decodeDv v = r.op

/-- R80: the eight bits of the dispatch vector, each at its place. -/
def Obligations.DispatchVectorBits : Prop :=
  ∀ (s : State) (pos : Word) (d : Nat), pos.toNat = s.ref.toNat + d →
    (dispatchVector pos s).getLsbD 7 = decide (s.run = .halted) ∧
    (dispatchVector pos s).getLsbD 6 = s.gskip ∧
    (dispatchVector pos s).getLsbD 5 = decide (s.sync = .locked) ∧
    (dispatchVector pos s).getLsbD 4 = s.half ∧
    (dispatchVector pos s).getLsbD 3 = isShort s d ∧
    (dispatchVector pos s).getLsbD 2 = isLong s d ∧
    (dispatchVector pos s).getLsbD 1 = (s.half && isLong s (s.i1.toNat + d)) ∧
    (dispatchVector pos s).getLsbD 0 = decide (11 ≤ s.pr.length / 2 ∧ s.pr.length / 2 ≤ 25)

/-- R170, R81: `EDGE(pos)` performs the operation of the one row whose pattern matches the vector. -/
def Obligations.EdgePerformsMatchingRow : Prop :=
  ∀ (s : State) (pos : Word), ∀ r ∈ dvTable, r.accepts (dispatchVector pos s) = true →
    exec (.edge pos) s = exec (r.op.instr pos) s

/-- R84: the fields of a Frame record at their bits; the record is read back from its word. -/
def Obligations.FrameRecordLayout : Prop :=
  ∀ f : Frame,
    f.pack.extractLsb' 138 64 = f.first ∧ f.pack.extractLsb' 74 64 = f.last ∧
    f.pack.extractLsb' 10 64 = f.idx ∧ f.pack.extractLsb' 2 8 = f.byte ∧
    f.pack.getLsbD 1 = f.parityOk ∧ f.pack.getLsbD 0 = f.stopOk ∧ Frame.unpack f.pack = f

/-- R85, R86: a Marker word is the code over the position; it is read back, and a word with a reserved code
(4 to 7, 13 to 15) is read as none. -/
def Obligations.MarkerRecordLayout : Prop :=
  (∀ m : Marker, m.pack.toNat = m.kind.code.toNat * 2 ^ 64 + m.pos.toNat ∧ Marker.unpack? m.pack = some m) ∧
  (∀ w : MarkerWord, 4 ≤ w.toNat / 2 ^ 64 → w.toNat / 2 ^ 64 ≤ 7 ∨ 13 ≤ w.toNat / 2 ^ 64 →
    Marker.unpack? w = none) ∧
  ([.preambleBit, .start, .parityOk, .stopOk, .errTiming, .errLength, .errSkipped, .errParity, .errStop].map
    MarkerKind.code = [0#4, 1#4, 2#4, 3#4, 8#4, 9#4, 10#4, 11#4, 12#4])

/-! ### Windows -/

/-- R74, R75: both windows are closed at both ends, and Short has priority. The bounds are compared over the
integers. -/
def Obligations.WindowPredicates : Prop :=
  ∀ (s : State) (d : Nat),
    (isShort s d = true ↔ (s.tShort.toNat : Int) - s.errShort.toNat ≤ d ∧ d ≤ s.tShort.toNat + s.errShort.toNat) ∧
    (isLong s d = true ↔ (s.tLong.toNat : Int) - s.errLong.toNat ≤ d ∧ d ≤ s.tLong.toNat + s.errLong.toNat) ∧
    (classify s d = .short ↔ isShort s d = true) ∧
    (classify s d = .long ↔ isShort s d = false ∧ isLong s d = true) ∧
    (classify s d = .glitch ↔ isShort s d = false ∧ isLong s d = false)

/-- R32: what holds of the constants and the windows at every supported rate. -/
def Obligations.WindowProperties : Prop :=
  ∀ s : State, ConstantsOk s →
    20 ≤ s.tLong.toNat ∧ 10 ≤ s.tShort.toNat ∧ s.tShort.toNat < s.tLong.toNat ∧
    s.errLong.toNat = s.tLong.toNat / 4 ∧ s.errShort.toNat = s.tShort.toNat / 2 ∧ s.errLong = s.errShort ∧
    s.tShort.toNat - s.errShort.toNat = (s.tShort.toNat + 1) / 2 ∧
    5 ≤ s.tShort.toNat - s.errShort.toNat ∧ 15 ≤ s.tLong.toNat - s.errLong.toNat ∧
    s.tShort.toNat + s.errShort.toNat ≤ s.tLong.toNat - s.errLong.toNat ∧
    classify s 0 = .glitch ∧
    (∀ d, isShort s d = true → isLong s d = true → d = s.tShort.toNat + s.errShort.toNat)

/-- R110: the boundary table at `fs = 4000000` and the windows at `fs = 46000`. -/
def Obligations.BoundaryClasses : Prop :=
  (∀ s : State, ConstantsOk s → s.fs = 4000000#64 →
    s.tShort = 1000#64 ∧ s.errShort = 500#64 ∧ s.tLong = 2000#64 ∧ s.errLong = 500#64 ∧
    [0, 499, 500, 1000, 1499, 1500, 1501, 2000, 2500, 2501].map (fun d => (isShort s d, isLong s d, classify s d)) =
      [(false, false, .glitch), (false, false, .glitch), (true, false, .short), (true, false, .short),
       (true, false, .short), (true, true, .short), (false, true, .long), (false, true, .long),
       (false, true, .long), (false, false, .glitch)]) ∧
  (∀ s : State, ConstantsOk s → s.fs = 46000#64 →
    s.tShort = 11#64 ∧ s.errShort = 5#64 ∧ s.tLong = 23#64 ∧ s.errLong = 5#64 ∧ classify s 17 = .glitch ∧
    ∀ d : Nat, (classify s d = .short ↔ 6 ≤ d ∧ d ≤ 16) ∧ (classify s d = .long ↔ 18 ≤ d ∧ d ≤ 28))

/-! ### Reset and control -/

/-- R177, R37, R220: reset gives every register and both stores its value, keeps nothing and emits nothing.
What stands in the model's two streams stays (log entries 1 and 2). -/
def Obligations.ResetResult : Prop :=
  ∀ (s : State) (fs start : Word), 40000 ≤ fs.toNat →
    ∃ t, exec (.rst fs start) s = .next t ∧
      t.fs = fs ∧ t.tLong.toNat = fs.toNat / 2000 ∧ t.tShort.toNat = fs.toNat / 2000 / 2 ∧
      t.errLong.toNat = max (fs.toNat / 2000 / 4) 3 ∧ t.errShort.toNat = max (fs.toNat / 2000 / 2 / 2) 3 ∧
      t.run = .running ∧ t.sync = .hunting ∧ t.gskip = false ∧ t.half = false ∧
      t.ref = start ∧ t.slotStart = 0#64 ∧ t.i1 = 0#64 ∧ t.pktIdx = 0#64 ∧ t.pr = [] ∧ t.bb = [] ∧
      t.inputs = s.inputs ∧ t.outputs = s.outputs

/-- The model's choice for U2 (log entry 5): a rate below 40000 is refused. -/
def Obligations.ResetBelowMinimumRefused : Prop :=
  ∀ (s : State) (fs start : Word), fs.toNat < 40000 → exec (.rst fs start) s = .refused .unsupportedSampleRate

/-- R39 at reset, for every supported configuration: the invariants hold in the state after reset. -/
def Obligations.ResetInvariants : Prop :=
  (∀ fs start : Word, 40000 ≤ fs.toNat → Inv (State.afterReset fs start) ∧ Tiling (State.afterReset fs start)) ∧
  Inv State.reset ∧ Tiling State.reset

/-- R173, R175, R203, R204: `EOS` and `CANCEL` discard the buffered bits and halt a running block; a halted
block ignores them. Nothing is emitted and every other register keeps its value. -/
def Obligations.EndOfRun : Prop :=
  ∀ s : State,
    (s.run = .running →
      exec .eos s = .next { s with bb := [], run := .halted } ∧
      exec .cancel s = .next { s with bb := [], run := .halted }) ∧
    (s.run = .halted → exec .eos s = .next s ∧ exec .cancel s = .next s)

/-- R171: an edge that arrives after the run has ended changes nothing, whatever its position. -/
def Obligations.HaltedEdgeIgnored : Prop :=
  ∀ (s : State) (pos : Word),
    exec (.eHalt pos) s = .next s ∧ (s.run = .halted → exec (.edge pos) s = .next s)

/-- R21: while `Halted` every presentation but a reset leaves the block as it is; the reserved `op` is not
sent (R73). -/
def Obligations.HaltedUntilReset : Prop :=
  ∀ (s : State) (ps rest : List Ports), s.run = .halted → s.inputs = ps ++ rest →
    (∀ p ∈ ps, p.rst = false ∧ (p.evValid = true → p.ev.toNat / 2 ^ 64 ≠ 3)) →
    runSteps ps.length s = .next { s with inputs := rest }

/-- The model's choice for U1 (log entry 4): while an interval is to be measured, an `EDGE` below `ref` is
refused, and so is every operation that measures. -/
def Obligations.EdgeBelowReferenceRefused : Prop :=
  ∀ (s : State) (pos : Word), pos.toNat < s.ref.toNat →
    (Measuring s → exec (.edge pos) s = .refused .edgeBelowRef) ∧
    (∀ op : DvOp, op ≠ .eHalt → op ≠ .eGskip → exec (op.instr pos) s = .refused .edgeBelowRef)

/-- The step takes the oldest presentation: the decoded operation is executed on the state without it; nothing
asked for, or nothing presented, holds the state (R109, R180); the reserved `op` is refused (U3, log entry 6). -/
def Obligations.StepRunsDecodedInstruction : Prop :=
  ∀ s : State,
    (s.inputs = [] → step s = .next s) ∧
    ∀ (p : Ports) (rest : List Ports), s.inputs = p :: rest →
      (p.rst = true → step s = exec (.rst p.cfgFs p.cfgStart) { s with inputs := rest }) ∧
      (p.rst = false → p.evValid = true → ∀ i, decode (.ev p.ev) = .instr i →
        step s = exec i { s with inputs := rest }) ∧
      (p.rst = false → p.evValid = true → decode (.ev p.ev) = .reservedEventOp →
        step s = .refused .reservedEventOp) ∧
      (p.rst = false → p.evValid = false → step s = .next { s with inputs := rest })

/-- R178: an event presented with reset is dropped. R66: without reset the configuration wires have no
effect. -/
def Obligations.ResetOverridesEvent : Prop :=
  ∀ (s : State) (p : Ports) (rest : List Ports) (v : Bool) (e : EvWord) (a b : Word),
    (p.rst = true →
      step { s with inputs := { p with evValid := v, ev := e } :: rest } = step { s with inputs := p :: rest }) ∧
    (p.rst = false →
      step { s with inputs := { p with cfgFs := a, cfgStart := b } :: rest } = step { s with inputs := p :: rest })

/-- R178: with separate wires the halting events come first; then the order of `CANCEL` and `EOS` makes no
difference and the coinciding `EDGE` is a no-op. -/
def Obligations.HaltingEventsFirst : Prop :=
  ∀ (s : State) (pos : Word) (rest : List Ports) (c e : Bool), (c || e) = true → s.run = .running →
    s.inputs = (serialise c e (some pos)).map Ports.ofEvent ++ rest →
    runSteps (serialise c e (some pos)).length s = .next { s with inputs := rest, bb := [], run := .halted }

/-! ### Glitch absorption -/

/-- R103: `E_GLITCH` sets `gskip` and changes nothing else; an interval in neither window performs it,
hunting or locked, first or second of its slot. -/
def Obligations.GlitchResult : Prop :=
  ∀ (s : State) (pos : Word) (d : Nat), pos.toNat = s.ref.toNat + d →
    exec (.eGlitch pos) s = .next { s with gskip := true } ∧
    (Measuring s → isShort s d = false → isLong s d = false →
      exec (.edge pos) s = .next { s with gskip := true })

/-- R104: `E_GSKIP` clears `gskip` and changes nothing else, whatever the position. -/
def Obligations.SkipResult : Prop :=
  ∀ (s : State) (pos : Word),
    exec (.eGskip pos) s = .next { s with gskip := false } ∧
    (s.run = .running → s.gskip = true → exec (.edge pos) s = .next { s with gskip := false })

/-- R105, R107: any number of bounces, each a measured Glitch and one skipped edge, leaves the state as it was,
so that the edge after them has the effect it would have had without them. -/
def Obligations.GlitchTransparency : Prop :=
  ∀ (s : State) (bounces : List (Word × Word)) (pos : Word), Measuring s →
    (∀ b ∈ bounces, ∃ d, b.1.toNat = s.ref.toNat + d ∧ classify s d = .glitch) →
    deliver (bounces.flatMap fun b => [b.1, b.2]) s = .next s ∧
    deliver ((bounces.flatMap fun b => [b.1, b.2]) ++ [pos]) s = exec (.edge pos) s

/-- R106, R226: once the edges lie beyond the Long window of `ref`, the block alternates `E_GLITCH` and
`E_GSKIP` for as long as such edges arrive; `ref` does not move, `Locked` is not left and nothing is emitted. -/
def Obligations.OverlongIntervalStuck : Prop :=
  ∀ (s : State) (ps : List Word), s.run = .running → ConstantsOk s →
    (∀ p ∈ ps, s.ref.toNat + s.tLong.toNat + s.errLong.toNat < p.toNat) →
    deliver ps s = .next { s with gskip := xor s.gskip (decide (ps.length % 2 = 1)) }

/-! ### Hunting -/

/-- R121, R141: the first interval of a slot is Short: the slot is opened, hunting or locked. -/
def Obligations.FirstShortResult : Prop :=
  ∀ (s : State) (pos : Word) (d : Nat), pos.toNat = s.ref.toNat + d →
    let t : State := { s with slotStart := s.ref, i1 := BitVec.ofNat 64 d, ref := pos, half := true }
    exec (.hShort1 pos) s = .next t ∧ exec (.lShort1 pos) s = .next t ∧
    (Measuring s → s.half = false → isShort s d = true → exec (.edge pos) s = .next t)

/-- R122: Short and Short summing to Long while hunting is a preamble One: its pair is recorded, its marker
emitted, and the hunt goes on. -/
def Obligations.PreambleOneResult : Prop :=
  ∀ (s : State) (pos : Word) (d : Nat), pos.toNat = s.ref.toNat + d →
    let t : State := { s with
      pr := s.pr ++ [s.slotStart, pos], outputs := s.outputs ++ [.marker ⟨.preambleBit, s.slotStart⟩],
      ref := pos, half := false }
    exec (.hOne pos) s = .next t ∧
    (Measuring s → s.sync = .hunting → s.half = true → isShort s d = true → isLong s (s.i1.toNat + d) = true →
      exec (.edge pos) s = .next t)

/-- R123, R125, R126: a direct Long after 11 to 25 preamble Ones locks, with that Long as the start bit. The
buffer is empty while hunting (R39 item 1). -/
def Obligations.LockResult : Prop :=
  ∀ (s : State) (pos : Word) (d : Nat), pos.toNat = s.ref.toNat + d → s.bb = [] →
    let t : State := { s with ref := pos, sync := .locked, pktIdx := 0#64, bb := [⟨s.ref, pos, .zero⟩] }
    exec (.hLock pos) s = .next t ∧
    (Measuring s → s.sync = .hunting → s.half = false → isShort s d = false → isLong s d = true →
      11 ≤ s.pr.length / 2 → s.pr.length / 2 ≤ 25 → exec (.edge pos) s = .next t)

/-- R128, R201: a direct Long after any other number of Ones raises PreambleLengthViolation at the start of
that Long. -/
def Obligations.LengthErrorResult : Prop :=
  ∀ (s : State) (pos : Word) (d : Nat), pos.toNat = s.ref.toNat + d →
    let t : State := { s with
      ref := pos, outputs := s.outputs ++ [.marker ⟨.errLength, s.ref⟩],
      sync := .hunting, pr := [], bb := [], half := false }
    exec (.hLenerr pos) s = .next t ∧
    (Measuring s → s.sync = .hunting → s.half = false → isShort s d = false → isLong s d = true →
      ¬(11 ≤ s.pr.length / 2 ∧ s.pr.length / 2 ≤ 25) → exec (.edge pos) s = .next t)

/-- R124, R205: a Short then a Long that is not the second half of a One, after 11 to 25 Ones: the stray Short
is marked and the Long is the start bit. The buffer is empty while hunting (R39 item 1). -/
def Obligations.SecondPulseLockResult : Prop :=
  ∀ (s : State) (pos : Word) (d : Nat), pos.toNat = s.ref.toNat + d → s.bb = [] →
    let t : State := { s with
      outputs := s.outputs ++ [.marker ⟨.errSkipped, s.slotStart⟩],
      ref := pos, half := false, sync := .locked, pktIdx := 0#64, bb := [⟨s.ref, pos, .zero⟩] }
    exec (.hLock2 pos) s = .next t ∧ exec (.hLock2Shared pos) s = .next t ∧
    (Measuring s → s.sync = .hunting → s.half = true → isLong s d = true →
      ¬(isShort s d = true ∧ isLong s (s.i1.toNat + d) = true) →
      11 ≤ s.pr.length / 2 → s.pr.length / 2 ≤ 25 → exec (.edge pos) s = .next t)

/-- R129, R205, R201: the same with any other number of Ones: the stray Short is marked, then
PreambleLengthViolation is raised at the start of the Long. -/
def Obligations.SecondPulseLengthErrorResult : Prop :=
  ∀ (s : State) (pos : Word) (d : Nat), pos.toNat = s.ref.toNat + d →
    let t : State := { s with
      outputs := s.outputs ++ [.marker ⟨.errSkipped, s.slotStart⟩, .marker ⟨.errLength, s.ref⟩],
      ref := pos, half := false, sync := .hunting, pr := [], bb := [] }
    exec (.hLenerr2 pos) s = .next t ∧ exec (.hLenerr2Shared pos) s = .next t ∧
    (Measuring s → s.sync = .hunting → s.half = true → isLong s d = true →
      ¬(isShort s d = true ∧ isLong s (s.i1.toNat + d) = true) →
      ¬(11 ≤ s.pr.length / 2 ∧ s.pr.length / 2 ≤ 25) → exec (.edge pos) s = .next t)

/-- R127, R145, R200: a slot that began with a Short and is no One raises TimingViolation at its start: while
hunting when the second interval is Short only, while locked always. -/
def Obligations.TimingViolationResult : Prop :=
  ∀ (s : State) (pos : Word) (d : Nat), pos.toNat = s.ref.toNat + d →
    let t : State := { s with
      ref := pos, outputs := s.outputs ++ [.marker ⟨.errTiming, s.slotStart⟩],
      sync := .hunting, pr := [], bb := [], half := false }
    exec (.hTerr pos) s = .next t ∧ exec (.lTerrLong pos) s = .next t ∧ exec (.lTerrSum pos) s = .next t ∧
    (Measuring s → s.half = true →
      (s.sync = .hunting → isShort s d = true → isLong s d = false → isLong s (s.i1.toNat + d) = false →
        exec (.edge pos) s = .next t) ∧
      (s.sync = .locked → isShort s d = false → isLong s d = true → exec (.edge pos) s = .next t) ∧
      (s.sync = .locked → isShort s d = true → isLong s (s.i1.toNat + d) = false →
        exec (.edge pos) s = .next t))

/-! ### Bit decode and frame assembly -/

/-- R142, R143, R151: the 1st to 10th bit of a frame, Zero or One, is appended and nothing is emitted. -/
def Obligations.BitSavedResult : Prop :=
  ∀ (s : State) (pos : Word) (d : Nat), pos.toNat = s.ref.toNat + d → s.bb.length ≠ 10 →
    let zero : State := { s with ref := pos, bb := s.bb ++ [⟨s.ref, pos, .zero⟩] }
    let one : State := { s with ref := pos, half := false, bb := s.bb ++ [⟨s.slotStart, pos, .one⟩] }
    exec (.lZero pos) s = .next zero ∧ exec (.lOne pos) s = .next one ∧
    (Measuring s → s.sync = .locked → s.half = false → isShort s d = false → isLong s d = true →
      exec (.edge pos) s = .next zero) ∧
    (Measuring s → s.sync = .locked → s.half = true → isShort s d = true → isLong s (s.i1.toNat + d) = true →
      exec (.edge pos) s = .next one)

/-- R142, R143, R150, R152, R157: the 11th bit, Zero or One, completes the frame: three markers and the Frame
are emitted, the frame is counted and the buffer emptied. -/
def Obligations.FrameCompletedResult : Prop :=
  ∀ (s : State) (pos : Word) (d : Nat) (start parity : BitInfo) (data : List BitInfo),
    pos.toNat = s.ref.toNat + d → data.length = 8 → s.bb = start :: data ++ [parity] →
    let done (stop : BitInfo) : State := { s with
      ref := pos
      half := if stop.value = .one then false else s.half
      pktIdx := s.pktIdx + 1#64
      bb := []
      outputs := s.outputs ++
        [.marker ⟨.start, start.start⟩,
         .marker ⟨if parityOk data parity then .parityOk else .errParity, parity.start⟩,
         .marker ⟨if stop.value = .one then .stopOk else .errStop, stop.start⟩,
         .frame { first := start.start, last := pos - 1#64, idx := s.pktIdx, byte := payloadByte data,
                  parityOk := parityOk data parity, stopOk := decide (stop.value = .one) }] }
    exec (.lZero pos) s = .next (done ⟨s.ref, pos, .zero⟩) ∧
    exec (.lOne pos) s = .next (done ⟨s.slotStart, pos, .one⟩) ∧
    (Measuring s → s.sync = .locked → s.half = false → isShort s d = false → isLong s d = true →
      exec (.edge pos) s = .next (done ⟨s.ref, pos, .zero⟩)) ∧
    (Measuring s → s.sync = .locked → s.half = true → isShort s d = true → isLong s (s.i1.toNat + d) = true →
      exec (.edge pos) s = .next (done ⟨s.slotStart, pos, .one⟩))

/-- R151, R157: `FA_SAVE` has no effect; `FA_ASSEMBLE` on 11 entries emits three markers and the frame, counts
it and empties the buffer. -/
def Obligations.AssemblerOperations : Prop :=
  ∀ s : State,
    exec .faSave s = .next s ∧
    (∀ (start parity stop : BitInfo) (data : List BitInfo), data.length = 8 →
      s.bb = start :: data ++ [parity, stop] →
      exec .faAssemble s = .next { s with
        pktIdx := s.pktIdx + 1#64
        bb := []
        outputs := s.outputs ++
          [.marker ⟨.start, start.start⟩,
           .marker ⟨if parityOk data parity then .parityOk else .errParity, parity.start⟩,
           .marker ⟨if stop.value = .one then .stopOk else .errStop, stop.start⟩,
           .frame { first := start.start, last := stop.finish - 1#64, idx := s.pktIdx, byte := payloadByte data,
                    parityOk := parityOk data parity, stopOk := decide (stop.value = .one) }] })

/-- The model's choice (log entry 7): on a buffer that does not hold 11 entries the spec gives `FA_ASSEMBLE` no
effect, and the model faults by name. -/
def Obligations.AssembleElsewhereFaults : Prop :=
  ∀ s : State, s.bb.length ≠ 11 → exec .faAssemble s = .fault .assembleWithoutElevenBits

/-- R150, R83: `save_bit` appends and then performs the `FA` row that `bf = (len(BB) == 11)` selects. -/
def Obligations.SaveBitSelectsRow : Prop :=
  ∀ (s : State) (b : BitInfo),
    (bufferFull { s with bb := s.bb ++ [b] } = 1#1 ↔ s.bb.length = 10) ∧
    exec (decodeFa (bufferFull { s with bb := s.bb ++ [b] })).instr { s with bb := s.bb ++ [b] } =
      .next (saveBit b s)

/-- R153, R161: bit `i` of the payload is data bit `i`. -/
def Obligations.PayloadBits : Prop :=
  ∀ data : List BitInfo, data.length = 8 → ∀ i (h : i < data.length),
    (payloadByte data).getLsbD i = decide (data[i].value = .one)

/-- R154, R155: the ones of the data bits are the ones of the payload, and the parity is good exactly when data
and parity together carry an odd number of ones. -/
def Obligations.ParityRule : Prop :=
  ∀ (data : List BitInfo) (parity : BitInfo), data.length = 8 →
    ones data = popcount (payloadByte data) ∧
    expectedParity data = 1 - popcount (payloadByte data) % 2 ∧
    (parityOk data parity = true ↔ (popcount (payloadByte data) + bitNat parity.value) % 2 = 1)

/-- R158: the values of the parity and stop bits decide their flags and the kinds of their markers only. With
another value in the parity entry, the edge that completes the frame leaves the same state, records and all but
the parity flag and marker kind (and the same state whole if it raised a violation instead); with other values in
the parity and the stop entry, so does `FA_ASSEMBLE`, but for both flags and marker kinds. Whatever the values,
the frame is counted, `BB` is emptied and `sync` keeps its value. -/
def Obligations.MismatchChangesNoState : Prop :=
  (∀ (s t : State) (pos : Word) (bits : List BitInfo) (p : BitInfo) (a : BitValue), s.sync = .locked →
    bits.length = 9 → exec (.edge pos) { s with bb := bits ++ [p] } = .next t → t.bb = [] →
    ∃ u, exec (.edge pos) { s with bb := bits ++ [{ p with value := a }] } = .next u ∧
      (t.sync = .hunting → u = t) ∧
      (t.sync = .locked → t.pktIdx = s.pktIdx + 1#64 ∧
        ∃ (start stop : Marker) (f : Frame) (ok : Bool),
          t.outputs = s.outputs ++ [.marker start,
            .marker ⟨if f.parityOk then .parityOk else .errParity, p.start⟩, .marker stop, .frame f] ∧
          u = { t with outputs := s.outputs ++ [.marker start,
            .marker ⟨if ok then .parityOk else .errParity, p.start⟩, .marker stop,
            .frame { f with parityOk := ok }] })) ∧
  (∀ (s : State) (bits : List BitInfo) (p x : BitInfo) (a b : BitValue), bits.length = 9 →
    ∃ (t : State) (start : Marker) (f : Frame) (ok stopped : Bool),
      exec .faAssemble { s with bb := bits ++ [p, x] } = .next t ∧
      t = { s with
        pktIdx := s.pktIdx + 1#64
        bb := []
        outputs := s.outputs ++ [.marker start,
          .marker ⟨if f.parityOk then .parityOk else .errParity, p.start⟩,
          .marker ⟨if f.stopOk then .stopOk else .errStop, x.start⟩, .frame f] } ∧
      exec .faAssemble { s with bb := bits ++ [{ p with value := a }, { x with value := b }] } =
        .next { t with outputs := s.outputs ++ [.marker start,
          .marker ⟨if ok then .parityOk else .errParity, p.start⟩,
          .marker ⟨if stopped then .stopOk else .errStop, x.start⟩,
          .frame { f with parityOk := ok, stopOk := stopped }] })

/-! ### Exceptions -/

/-- R190, R200 to R204, R207: what each of the nine causes emits and does, the codes of the classes, and what
`Invalidate` does. -/
def Obligations.ExceptionEntry : Prop :=
  ∀ (s : State) (p : Word),
    invalidate s = { s with sync := .hunting, pr := [], bb := [], half := false } ∧
    (∀ c ∈ [Cause.huntingSum, .lockedSum, .lockedLong],
      c.violation.code = 1 ∧
      raise c p s = { s with
        outputs := s.outputs ++ [.marker ⟨.errTiming, p⟩], sync := .hunting, pr := [], bb := [], half := false }) ∧
    (∀ c ∈ [Cause.directLength, .strayLength],
      c.violation.code = 2 ∧
      raise c p s = { s with
        outputs := s.outputs ++ [.marker ⟨.errLength, p⟩], sync := .hunting, pr := [], bb := [], half := false }) ∧
    Cause.parityMismatch.violation.code = 3 ∧ Cause.stopMismatch.violation.code = 3 ∧
    raise .parityMismatch p s = { s with outputs := s.outputs ++ [.marker ⟨.errParity, p⟩] } ∧
    raise .stopMismatch p s = { s with outputs := s.outputs ++ [.marker ⟨.errStop, p⟩] } ∧
    Cause.sourceExhausted.violation.code = 4 ∧ Cause.cancelled.violation.code = 5 ∧
    raise .sourceExhausted p s = { s with bb := [], run := .halted } ∧
    raise .cancelled p s = { s with bb := [], run := .halted }

/-! ### Whole-machine rules -/

/-- R9, R30, R66: without a reset no step changes `FS` or a constant. -/
def Obligations.ConstantsFixed : Prop :=
  ∀ s t : State, step s = .next t → noReset s →
    t.fs = s.fs ∧ t.tLong = s.tLong ∧ t.tShort = s.tShort ∧ t.errLong = s.errLong ∧ t.errShort = s.errShort

/-- R25: without a reset `ref` moves only to the position of an edge whose interval qualifies, and then `gskip`
is 0 before and after; it never moves down. -/
def Obligations.ReferenceMoves : Prop :=
  ∀ s t : State, step s = .next t → noReset s →
    s.ref.toNat ≤ t.ref.toNat ∧
    (t.ref ≠ s.ref → ∃ p rest, s.inputs = p :: rest ∧ fetch p = .instr (.edge t.ref) ∧
      s.run = .running ∧ s.gskip = false ∧ t.gskip = false ∧
      classify s (t.ref.toNat - s.ref.toNat) ≠ .glitch)

/-- R29, R57: without a reset `pkt_idx` keeps its value, or is set to 0 by a lock, or counts one completed
frame while `Locked`. -/
def Obligations.PacketIndexWriters : Prop :=
  ∀ s t : State, Inv s → step s = .next t → noReset s →
    t.pktIdx = s.pktIdx ∨
    (s.sync = .hunting ∧ t.sync = .locked ∧ t.pktIdx = 0#64) ∨
    (s.sync = .locked ∧ t.sync = .locked ∧ s.bb.length = 10 ∧ t.bb = [] ∧ t.pktIdx = s.pktIdx + 1#64)

/-- R131 item a, R125, R126: `Locked` is entered only on an edge that ends 11 to 25 recorded Ones and whose
interval lies in the Long window; the byte counter is then 0 and the buffer holds the start bit. -/
def Obligations.LockOnlyAfterPreamble : Prop :=
  ∀ s t : State, Inv s → step s = .next t → s.sync = .hunting → t.sync = .locked →
    11 ≤ s.pr.length / 2 ∧ s.pr.length / 2 ≤ 25 ∧ t.pr = s.pr ∧ t.pktIdx = 0#64 ∧
    s.ref.toNat ≤ t.ref.toNat ∧ isLong s (t.ref.toNat - s.ref.toNat) = true ∧
    ¬(s.half = true ∧ isShort s (t.ref.toNat - s.ref.toNat) = true ∧
        isLong s (s.i1.toNat + (t.ref.toNat - s.ref.toNat)) = true) ∧
    t.bb = [⟨s.ref, t.ref, .zero⟩]

/-- R146, R23: `Locked` is left only by reset or by a TimingViolation at the start of the slot. -/
def Obligations.LockedLeftOnlyByViolation : Prop :=
  ∀ s t : State, step s = .next t → noReset s → s.sync = .locked → t.sync = .hunting →
    s.run = .running ∧ s.half = true ∧ t.pr = [] ∧ t.bb = [] ∧ t.half = false ∧ t.pktIdx = s.pktIdx ∧
    t.outputs = s.outputs ++ [.marker ⟨.errTiming, s.slotStart⟩]

/-- R162, R157, R54: a Frame is emitted only while `Locked` and only by the bit that follows ten buffered ones;
it starts where the first of them starts, ends just before the new `ref` and carries the index before the
count. -/
def Obligations.FrameOnlyFromElevenBits : Prop :=
  ∀ (s t : State) (f : Frame), Inv s → Tiling s → step s = .next t →
    .frame f ∈ newOutputs s t →
    s.sync = .locked ∧ t.sync = .locked ∧ s.bb.length = 10 ∧ t.bb = [] ∧
    (∀ b, s.bb.head? = some b → f.first = b.start) ∧ f.first.toNat ≤ f.last.toNat ∧
    f.last.toNat + 1 = t.ref.toNat ∧ f.idx = s.pktIdx ∧ t.pktIdx = s.pktIdx + 1#64

/-- R68, R230: a step adds at most one Frame and at most three Markers to what was emitted, and a Frame comes
last. -/
def Obligations.OutputsPerStep : Prop :=
  ∀ s t : State, Inv s → step s = .next t →
    ∃ added, t.outputs = s.outputs ++ added ∧
      (added.filterMap Output.marker?).length ≤ 3 ∧
      ((added.filterMap Output.frame?) = [] ∨
        ∃ ms f, added = ms ++ [.frame f] ∧ ms.filterMap Output.frame? = [] ∧ ms.length = 3)

/-- R33, R38: no operation reads a record back: with other records emitted before, a step does the same and
adds the same records, and stops where it stopped. -/
def Obligations.OutputsNotRead : Prop :=
  ∀ (s : State) (o : List Output),
    (∀ t, step s = .next t →
      step { s with outputs := o ++ s.outputs } = .next { t with outputs := o ++ t.outputs }) ∧
    (∀ r, step s = .refused r → step { s with outputs := o ++ s.outputs } = .refused r)

/-- R26: while `half` is 0 the values of `slot_start` and `i1` are not read: with others in their place a step
does the same, but for the two stale values themselves. -/
def Obligations.StaleSlotNotRead : Prop :=
  ∀ (s t : State) (a b : Word), s.half = false → step s = .next t →
    ∃ t', step { s with slotStart := a, i1 := b } = .next t' ∧
      { t' with slotStart := t.slotStart, i1 := t.i1 } = t ∧ (t.half = true → t' = t)

/-- R58, R35: only the count of recorded Ones is read, and a count that saturates at 26 gives the same
behaviour: two states that differ only in `PR` and agree on the saturated count step to such states. -/
def Obligations.SaturatingPreambleCount : Prop :=
  ∀ (s t : State) (l : List Word), min (s.pr.length / 2) 26 = min (l.length / 2) 26 → step s = .next t →
    ∃ l', step { s with pr := l } = .next { t with pr := l' } ∧
      min (t.pr.length / 2) 26 = min (l'.length / 2) 26

/-- R39, items 1 to 5, 7 and 8: every step keeps the invariants. -/
def Obligations.InvariantsKept : Prop :=
  ∀ s t : State, Inv s → step s = .next t → Inv t

/-- R54, R131 item b: every step keeps the buffered bits, and while hunting the recorded preamble bits,
abutting and ending where the slot in progress began. -/
def Obligations.TilingKept : Prop :=
  ∀ s t : State, Inv s → Tiling s → step s = .next t → Tiling t

/-- R10, R72, R206, R224: under the environment's promise a run never stops: all presentations are taken, and
the state after them keeps the invariants. -/
def Obligations.LegalRunCompletes : Prop :=
  ∀ s : State, Inv s → LegalInputs s →
    ∃ t, runSteps s.inputs.length s = .next t ∧ t.inputs = [] ∧ Inv t

/-- R79, R125, R131, R233: `n` nominal Ones and a nominal Zero, hunting with nothing recorded, lock exactly for
11 to 25; otherwise the Zero is reported at its start and the count restarts. -/
def Obligations.NominalPreamble : Prop :=
  ∀ (s : State) (n : Nat) (rest : List Ports), ConstantsOk s → BetweenSlots s → s.sync = .hunting →
    s.pr = [] → s.bb = [] → s.ref.toNat + (n + 1) * s.tLong.toNat < 2 ^ 64 →
    s.inputs = (expandAll [.pre n, .zero] (traceEnv s)).1 ++ rest →
    ∃ t, runSteps (2 * n + 1) s = .next t ∧ t.inputs = rest ∧ BetweenSlots t ∧ ConstantsOk t ∧
      traceEnv t = (expandAll [.pre n, .zero] (traceEnv s)).2 ∧ frameStream t = frameStream s ∧
      t.ref.toNat = s.ref.toNat + n * (2 * s.tShort.toNat) + s.tLong.toNat ∧
      (11 ≤ n ∧ n ≤ 25 → t.sync = .locked ∧ t.pktIdx = 0#64 ∧
        t.bb = [⟨BitVec.ofNat 64 (s.ref.toNat + n * (2 * s.tShort.toNat)), t.ref, .zero⟩]) ∧
      (¬(11 ≤ n ∧ n ≤ 25) → t.sync = .hunting ∧ t.pr = [] ∧ t.bb = [] ∧
        t.outputs.getLast? =
          some (.marker ⟨.errLength, BitVec.ofNat 64 (s.ref.toNat + n * (2 * s.tShort.toNat))⟩))

/-- R78, R79, R91, R153 to R159: while `Locked`, the nominal bits that complete a frame, with any data byte and
any start, parity and stop bit, are decoded: the byte is the one sent, the flags tell whether parity and stop are
the expected ones, the start bit is not examined, and the block stays `Locked` for the next frame. Up to ten bits
may be buffered already: none for a later frame of a packet; the Zero that locked for the first (R126); the Frame
starts where the first of them starts. -/
def Obligations.NominalFrame : Prop :=
  ∀ (s : State) (v : BitVec 8) (start parity stop : BitValue) (sent : List BitValue) (rest : List Ports),
    ConstantsOk s → BetweenSlots s → s.sync = .locked → s.bb.length ≤ 10 →
    s.bb.map BitInfo.value ++ sent = wireBits v start parity stop →
    s.ref.toNat + sent.length * s.tLong.toNat < 2 ^ 64 →
    s.inputs = (traceBits sent (traceEnv s)).1 ++ rest →
    ∃ t, runSteps (traceBits sent (traceEnv s)).1.length s = .next t ∧
      t.inputs = rest ∧ BetweenSlots t ∧ ConstantsOk t ∧ t.sync = .locked ∧ t.bb = [] ∧
      t.pktIdx = s.pktIdx + 1#64 ∧ traceEnv t = (traceBits sent (traceEnv s)).2 ∧
      frameStream t = frameStream s ++
        [{ first := runStart s.bb s.ref, last := t.ref - 1#64, idx := s.pktIdx, byte := v,
           parityOk := decide (parity = oddParity v), stopOk := decide (stop = .one) }]

/-- R79, R126, R157: a whole nominal packet, `PRE n` with `n` from 11 to 25 and then one frame or more, is decoded
from `Hunting` with nothing recorded: the bytes in order, numbered from 0, all flags good; the first Frame starts
at the Zero that locks, which is its start bit. -/
def Obligations.NominalPacket : Prop :=
  ∀ (s : State) (n : Nat) (v : BitVec 8) (vs : List (BitVec 8)) (rest : List Ports),
    ConstantsOk s → BetweenSlots s → s.sync = .hunting → s.pr = [] → s.bb = [] → 11 ≤ n → n ≤ 25 →
    s.ref.toNat + (n + 11 * (v :: vs).length) * s.tLong.toNat < 2 ^ 64 →
    s.inputs = (expandAll (.pre n :: (v :: vs).map .byte) (traceEnv s)).1 ++ rest →
    ∃ t frames, runSteps (expandAll (.pre n :: (v :: vs).map .byte) (traceEnv s)).1.length s = .next t ∧
      t.inputs = rest ∧ BetweenSlots t ∧ t.sync = .locked ∧ t.bb = [] ∧
      t.pktIdx = BitVec.ofNat 64 (v :: vs).length ∧
      frameStream t = frameStream s ++ frames ∧ frames.map Frame.byte = v :: vs ∧
      frames.map Frame.idx = (List.range (v :: vs).length).map (BitVec.ofNat 64) ∧
      (∀ f ∈ frames, f.parityOk = true ∧ f.stopOk = true) ∧
      frames.head?.map Frame.first = some (BitVec.ofNat 64 (s.ref.toNat + n * (2 * s.tShort.toNat)))

end
end

