-- ==== Sys2Proof/Laws/Decode.lean ====
section
/-! SUPPORT. Reading back what the encoders of Decode.lean write. -/

namespace Sys2Proof

/-- The bits of an event word: `op` above `pos` (R71). -/
theorem evWord_bit (op : BitVec 2) (pos : Word) (i : Nat) :
    (evWord op pos).getLsbD i = if i < 64 then pos.getLsbD i else op.getLsbD (i - 64) :=
  BitVec.getLsbD_append (x := op) (y := pos)

@[simp] theorem evOp_evWord (op : BitVec 2) (pos : Word) : evOp (evWord op pos) = op := by
  apply BitVec.eq_of_getLsbD_eq
  intro i hi
  simp [evOp, evWord_bit, hi]

@[simp] theorem evPos_evWord (op : BitVec 2) (pos : Word) : evPos (evWord op pos) = pos := by
  apply BitVec.eq_of_getLsbD_eq
  intro i hi
  simp [evPos, evWord_bit, hi]

/-- An event word is its two fields. -/
theorem evWord_fields (w : EvWord) : evWord (evOp w) (evPos w) = w := by
  apply BitVec.eq_of_getLsbD_eq
  intro i hi
  rw [evWord_bit]
  by_cases h : i < 64
  · simp [evPos, h]
  · have h2 : i - 64 < 2 := by omega
    have h3 : 64 + (i - 64) = i := by omega
    simp [evOp, h, h2, h3]

/-- The condition bits a row demands (R81). -/
def DvOp.demands : DvOp → Dv → Prop
  | .eHalt, v => v.ht = true
  | .eGskip, v => v.ht = false ∧ v.gs = true
  | .eGlitch, v => v.ht = false ∧ v.gs = false ∧ v.s = false ∧ v.l = false
  | .hShort1, v => v.ht = false ∧ v.gs = false ∧ v.lk = false ∧ v.hf = false ∧ v.s = true
  | .hLock, v => v.ht = false ∧ v.gs = false ∧ v.lk = false ∧ v.hf = false ∧ v.s = false ∧ v.l = true ∧ v.pl = true
  | .hLenerr, v =>
    v.ht = false ∧ v.gs = false ∧ v.lk = false ∧ v.hf = false ∧ v.s = false ∧ v.l = true ∧ v.pl = false
  | .hOne, v => v.ht = false ∧ v.gs = false ∧ v.lk = false ∧ v.hf = true ∧ v.s = true ∧ v.ls = true
  | .hLock2, v =>
    v.ht = false ∧ v.gs = false ∧ v.lk = false ∧ v.hf = true ∧ v.s = false ∧ v.l = true ∧ v.pl = true
  | .hLock2Shared, v =>
    v.ht = false ∧ v.gs = false ∧ v.lk = false ∧ v.hf = true ∧ v.s = true ∧ v.l = true ∧ v.ls = false ∧ v.pl = true
  | .hLenerr2, v =>
    v.ht = false ∧ v.gs = false ∧ v.lk = false ∧ v.hf = true ∧ v.s = false ∧ v.l = true ∧ v.pl = false
  | .hLenerr2Shared, v =>
    v.ht = false ∧ v.gs = false ∧ v.lk = false ∧ v.hf = true ∧ v.s = true ∧ v.l = true ∧ v.ls = false ∧ v.pl = false
  | .hTerr, v =>
    v.ht = false ∧ v.gs = false ∧ v.lk = false ∧ v.hf = true ∧ v.s = true ∧ v.l = false ∧ v.ls = false
  | .lShort1, v => v.ht = false ∧ v.gs = false ∧ v.lk = true ∧ v.hf = false ∧ v.s = true
  | .lZero, v => v.ht = false ∧ v.gs = false ∧ v.lk = true ∧ v.hf = false ∧ v.s = false ∧ v.l = true
  | .lOne, v => v.ht = false ∧ v.gs = false ∧ v.lk = true ∧ v.hf = true ∧ v.s = true ∧ v.ls = true
  | .lTerrLong, v => v.ht = false ∧ v.gs = false ∧ v.lk = true ∧ v.hf = true ∧ v.s = false ∧ v.l = true
  | .lTerrSum, v => v.ht = false ∧ v.gs = false ∧ v.lk = true ∧ v.hf = true ∧ v.s = true ∧ v.ls = false

/-- A row is selected exactly when its demands hold (R81, R82). -/
theorem selectRow_iff (v : Dv) (op : DvOp) : selectRow v = op ↔ op.demands v := by
  rcases v with ⟨ht, gs, lk, hf, s, l, ls, pl⟩
  cases op <;> cases ht <;> cases gs <;> cases lk <;> cases hf <;> cases s <;> cases l <;> cases ls <;> cases pl <;>
    simp [selectRow, DvOp.demands]

/-- The canonical word of a row selects the row. -/
@[simp] theorem decodeDv_word (op : DvOp) : decodeDv op.word = op := by
  cases op <;> decide

/-- A presented event word asks for its event. -/
theorem fetch_ofEvent_edge (pos : Word) : fetch (Ports.ofEvent (evWord 0#2 pos)) = .instr (.edge pos) := by
  simp [fetch, Ports.word?, Ports.ofEvent, decode, decodeEv]

/-- What the ports can ask for: nothing, a reset, one of the three events, or the reserved `op`. -/
theorem fetch_cases (p : Ports) :
    (fetch p = .idle ∧ p.rst = false ∧ p.evValid = false) ∨
    (fetch p = .instr (.rst p.cfgFs p.cfgStart) ∧ p.rst = true) ∨
    (p.rst = false ∧ p.evValid = true ∧
      ((fetch p = .instr (.edge (evPos p.ev)) ∧ evOp p.ev = 0#2) ∨
       (fetch p = .instr .eos ∧ evOp p.ev = 1#2) ∨
       (fetch p = .instr .cancel ∧ evOp p.ev = 2#2) ∨
       (fetch p = .reservedEventOp ∧ evOp p.ev = 3#2))) := by
  rcases hr : p.rst
  · rcases he : p.evValid
    · left; simp [fetch, Ports.word?, hr, he]
    · right; right
      refine ⟨rfl, rfl, ?_⟩
      have hop : evOp p.ev = 0#2 ∨ evOp p.ev = 1#2 ∨ evOp p.ev = 2#2 ∨ evOp p.ev = 3#2 := by
        generalize evOp p.ev = x
        revert x; decide
      rcases hop with h | h | h | h <;> simp [fetch, Ports.word?, hr, he, decode, decodeEv, h]
  · right; left; simp [fetch, Ports.word?, hr, decode]

end Sys2Proof
end

