-- ==== Sys2Proof/Laws/State.lean ====
section
/-! SUPPORT. One lemma per field per register update of Machine/Ops.lean, so that no proof unfolds a record
update. -/

namespace Sys2Proof.Machine

@[simp] theorem State.setRun_fs (s : State) (r : Run) : (s.setRun r).fs = s.fs := rfl
@[simp] theorem State.setRun_tLong (s : State) (r : Run) : (s.setRun r).tLong = s.tLong := rfl
@[simp] theorem State.setRun_tShort (s : State) (r : Run) : (s.setRun r).tShort = s.tShort := rfl
@[simp] theorem State.setRun_errLong (s : State) (r : Run) : (s.setRun r).errLong = s.errLong := rfl
@[simp] theorem State.setRun_errShort (s : State) (r : Run) : (s.setRun r).errShort = s.errShort := rfl
@[simp] theorem State.setRun_run (s : State) (r : Run) : (s.setRun r).run = r := rfl
@[simp] theorem State.setRun_sync (s : State) (r : Run) : (s.setRun r).sync = s.sync := rfl
@[simp] theorem State.setRun_gskip (s : State) (r : Run) : (s.setRun r).gskip = s.gskip := rfl
@[simp] theorem State.setRun_half (s : State) (r : Run) : (s.setRun r).half = s.half := rfl
@[simp] theorem State.setRun_ref (s : State) (r : Run) : (s.setRun r).ref = s.ref := rfl
@[simp] theorem State.setRun_slotStart (s : State) (r : Run) : (s.setRun r).slotStart = s.slotStart := rfl
@[simp] theorem State.setRun_i1 (s : State) (r : Run) : (s.setRun r).i1 = s.i1 := rfl
@[simp] theorem State.setRun_pktIdx (s : State) (r : Run) : (s.setRun r).pktIdx = s.pktIdx := rfl
@[simp] theorem State.setRun_pr (s : State) (r : Run) : (s.setRun r).pr = s.pr := rfl
@[simp] theorem State.setRun_bb (s : State) (r : Run) : (s.setRun r).bb = s.bb := rfl
@[simp] theorem State.setRun_inputs (s : State) (r : Run) : (s.setRun r).inputs = s.inputs := rfl
@[simp] theorem State.setRun_outputs (s : State) (r : Run) : (s.setRun r).outputs = s.outputs := rfl

@[simp] theorem State.setSync_fs (s : State) (y : Sync) : (s.setSync y).fs = s.fs := rfl
@[simp] theorem State.setSync_tLong (s : State) (y : Sync) : (s.setSync y).tLong = s.tLong := rfl
@[simp] theorem State.setSync_tShort (s : State) (y : Sync) : (s.setSync y).tShort = s.tShort := rfl
@[simp] theorem State.setSync_errLong (s : State) (y : Sync) : (s.setSync y).errLong = s.errLong := rfl
@[simp] theorem State.setSync_errShort (s : State) (y : Sync) : (s.setSync y).errShort = s.errShort := rfl
@[simp] theorem State.setSync_run (s : State) (y : Sync) : (s.setSync y).run = s.run := rfl
@[simp] theorem State.setSync_sync (s : State) (y : Sync) : (s.setSync y).sync = y := rfl
@[simp] theorem State.setSync_gskip (s : State) (y : Sync) : (s.setSync y).gskip = s.gskip := rfl
@[simp] theorem State.setSync_half (s : State) (y : Sync) : (s.setSync y).half = s.half := rfl
@[simp] theorem State.setSync_ref (s : State) (y : Sync) : (s.setSync y).ref = s.ref := rfl
@[simp] theorem State.setSync_slotStart (s : State) (y : Sync) : (s.setSync y).slotStart = s.slotStart := rfl
@[simp] theorem State.setSync_i1 (s : State) (y : Sync) : (s.setSync y).i1 = s.i1 := rfl
@[simp] theorem State.setSync_pktIdx (s : State) (y : Sync) : (s.setSync y).pktIdx = s.pktIdx := rfl
@[simp] theorem State.setSync_pr (s : State) (y : Sync) : (s.setSync y).pr = s.pr := rfl
@[simp] theorem State.setSync_bb (s : State) (y : Sync) : (s.setSync y).bb = s.bb := rfl
@[simp] theorem State.setSync_inputs (s : State) (y : Sync) : (s.setSync y).inputs = s.inputs := rfl
@[simp] theorem State.setSync_outputs (s : State) (y : Sync) : (s.setSync y).outputs = s.outputs := rfl

@[simp] theorem State.setGskip_fs (s : State) (b : Bool) : (s.setGskip b).fs = s.fs := rfl
@[simp] theorem State.setGskip_tLong (s : State) (b : Bool) : (s.setGskip b).tLong = s.tLong := rfl
@[simp] theorem State.setGskip_tShort (s : State) (b : Bool) : (s.setGskip b).tShort = s.tShort := rfl
@[simp] theorem State.setGskip_errLong (s : State) (b : Bool) : (s.setGskip b).errLong = s.errLong := rfl
@[simp] theorem State.setGskip_errShort (s : State) (b : Bool) : (s.setGskip b).errShort = s.errShort := rfl
@[simp] theorem State.setGskip_run (s : State) (b : Bool) : (s.setGskip b).run = s.run := rfl
@[simp] theorem State.setGskip_sync (s : State) (b : Bool) : (s.setGskip b).sync = s.sync := rfl
@[simp] theorem State.setGskip_gskip (s : State) (b : Bool) : (s.setGskip b).gskip = b := rfl
@[simp] theorem State.setGskip_half (s : State) (b : Bool) : (s.setGskip b).half = s.half := rfl
@[simp] theorem State.setGskip_ref (s : State) (b : Bool) : (s.setGskip b).ref = s.ref := rfl
@[simp] theorem State.setGskip_slotStart (s : State) (b : Bool) : (s.setGskip b).slotStart = s.slotStart := rfl
@[simp] theorem State.setGskip_i1 (s : State) (b : Bool) : (s.setGskip b).i1 = s.i1 := rfl
@[simp] theorem State.setGskip_pktIdx (s : State) (b : Bool) : (s.setGskip b).pktIdx = s.pktIdx := rfl
@[simp] theorem State.setGskip_pr (s : State) (b : Bool) : (s.setGskip b).pr = s.pr := rfl
@[simp] theorem State.setGskip_bb (s : State) (b : Bool) : (s.setGskip b).bb = s.bb := rfl
@[simp] theorem State.setGskip_inputs (s : State) (b : Bool) : (s.setGskip b).inputs = s.inputs := rfl
@[simp] theorem State.setGskip_outputs (s : State) (b : Bool) : (s.setGskip b).outputs = s.outputs := rfl

@[simp] theorem State.setHalf_fs (s : State) (b : Bool) : (s.setHalf b).fs = s.fs := rfl
@[simp] theorem State.setHalf_tLong (s : State) (b : Bool) : (s.setHalf b).tLong = s.tLong := rfl
@[simp] theorem State.setHalf_tShort (s : State) (b : Bool) : (s.setHalf b).tShort = s.tShort := rfl
@[simp] theorem State.setHalf_errLong (s : State) (b : Bool) : (s.setHalf b).errLong = s.errLong := rfl
@[simp] theorem State.setHalf_errShort (s : State) (b : Bool) : (s.setHalf b).errShort = s.errShort := rfl
@[simp] theorem State.setHalf_run (s : State) (b : Bool) : (s.setHalf b).run = s.run := rfl
@[simp] theorem State.setHalf_sync (s : State) (b : Bool) : (s.setHalf b).sync = s.sync := rfl
@[simp] theorem State.setHalf_gskip (s : State) (b : Bool) : (s.setHalf b).gskip = s.gskip := rfl
@[simp] theorem State.setHalf_half (s : State) (b : Bool) : (s.setHalf b).half = b := rfl
@[simp] theorem State.setHalf_ref (s : State) (b : Bool) : (s.setHalf b).ref = s.ref := rfl
@[simp] theorem State.setHalf_slotStart (s : State) (b : Bool) : (s.setHalf b).slotStart = s.slotStart := rfl
@[simp] theorem State.setHalf_i1 (s : State) (b : Bool) : (s.setHalf b).i1 = s.i1 := rfl
@[simp] theorem State.setHalf_pktIdx (s : State) (b : Bool) : (s.setHalf b).pktIdx = s.pktIdx := rfl
@[simp] theorem State.setHalf_pr (s : State) (b : Bool) : (s.setHalf b).pr = s.pr := rfl
@[simp] theorem State.setHalf_bb (s : State) (b : Bool) : (s.setHalf b).bb = s.bb := rfl
@[simp] theorem State.setHalf_inputs (s : State) (b : Bool) : (s.setHalf b).inputs = s.inputs := rfl
@[simp] theorem State.setHalf_outputs (s : State) (b : Bool) : (s.setHalf b).outputs = s.outputs := rfl

@[simp] theorem State.setRef_fs (s : State) (p : Word) : (s.setRef p).fs = s.fs := rfl
@[simp] theorem State.setRef_tLong (s : State) (p : Word) : (s.setRef p).tLong = s.tLong := rfl
@[simp] theorem State.setRef_tShort (s : State) (p : Word) : (s.setRef p).tShort = s.tShort := rfl
@[simp] theorem State.setRef_errLong (s : State) (p : Word) : (s.setRef p).errLong = s.errLong := rfl
@[simp] theorem State.setRef_errShort (s : State) (p : Word) : (s.setRef p).errShort = s.errShort := rfl
@[simp] theorem State.setRef_run (s : State) (p : Word) : (s.setRef p).run = s.run := rfl
@[simp] theorem State.setRef_sync (s : State) (p : Word) : (s.setRef p).sync = s.sync := rfl
@[simp] theorem State.setRef_gskip (s : State) (p : Word) : (s.setRef p).gskip = s.gskip := rfl
@[simp] theorem State.setRef_half (s : State) (p : Word) : (s.setRef p).half = s.half := rfl
@[simp] theorem State.setRef_ref (s : State) (p : Word) : (s.setRef p).ref = p := rfl
@[simp] theorem State.setRef_slotStart (s : State) (p : Word) : (s.setRef p).slotStart = s.slotStart := rfl
@[simp] theorem State.setRef_i1 (s : State) (p : Word) : (s.setRef p).i1 = s.i1 := rfl
@[simp] theorem State.setRef_pktIdx (s : State) (p : Word) : (s.setRef p).pktIdx = s.pktIdx := rfl
@[simp] theorem State.setRef_pr (s : State) (p : Word) : (s.setRef p).pr = s.pr := rfl
@[simp] theorem State.setRef_bb (s : State) (p : Word) : (s.setRef p).bb = s.bb := rfl
@[simp] theorem State.setRef_inputs (s : State) (p : Word) : (s.setRef p).inputs = s.inputs := rfl
@[simp] theorem State.setRef_outputs (s : State) (p : Word) : (s.setRef p).outputs = s.outputs := rfl

@[simp] theorem State.setSlot_fs (s : State) (p d : Word) : (s.setSlot p d).fs = s.fs := rfl
@[simp] theorem State.setSlot_tLong (s : State) (p d : Word) : (s.setSlot p d).tLong = s.tLong := rfl
@[simp] theorem State.setSlot_tShort (s : State) (p d : Word) : (s.setSlot p d).tShort = s.tShort := rfl
@[simp] theorem State.setSlot_errLong (s : State) (p d : Word) : (s.setSlot p d).errLong = s.errLong := rfl
@[simp] theorem State.setSlot_errShort (s : State) (p d : Word) : (s.setSlot p d).errShort = s.errShort := rfl
@[simp] theorem State.setSlot_run (s : State) (p d : Word) : (s.setSlot p d).run = s.run := rfl
@[simp] theorem State.setSlot_sync (s : State) (p d : Word) : (s.setSlot p d).sync = s.sync := rfl
@[simp] theorem State.setSlot_gskip (s : State) (p d : Word) : (s.setSlot p d).gskip = s.gskip := rfl
@[simp] theorem State.setSlot_half (s : State) (p d : Word) : (s.setSlot p d).half = s.half := rfl
@[simp] theorem State.setSlot_ref (s : State) (p d : Word) : (s.setSlot p d).ref = s.ref := rfl
@[simp] theorem State.setSlot_slotStart (s : State) (p d : Word) : (s.setSlot p d).slotStart = p := rfl
@[simp] theorem State.setSlot_i1 (s : State) (p d : Word) : (s.setSlot p d).i1 = d := rfl
@[simp] theorem State.setSlot_pktIdx (s : State) (p d : Word) : (s.setSlot p d).pktIdx = s.pktIdx := rfl
@[simp] theorem State.setSlot_pr (s : State) (p d : Word) : (s.setSlot p d).pr = s.pr := rfl
@[simp] theorem State.setSlot_bb (s : State) (p d : Word) : (s.setSlot p d).bb = s.bb := rfl
@[simp] theorem State.setSlot_inputs (s : State) (p d : Word) : (s.setSlot p d).inputs = s.inputs := rfl
@[simp] theorem State.setSlot_outputs (s : State) (p d : Word) : (s.setSlot p d).outputs = s.outputs := rfl

@[simp] theorem State.setPktIdx_fs (s : State) (n : Word) : (s.setPktIdx n).fs = s.fs := rfl
@[simp] theorem State.setPktIdx_tLong (s : State) (n : Word) : (s.setPktIdx n).tLong = s.tLong := rfl
@[simp] theorem State.setPktIdx_tShort (s : State) (n : Word) : (s.setPktIdx n).tShort = s.tShort := rfl
@[simp] theorem State.setPktIdx_errLong (s : State) (n : Word) : (s.setPktIdx n).errLong = s.errLong := rfl
@[simp] theorem State.setPktIdx_errShort (s : State) (n : Word) : (s.setPktIdx n).errShort = s.errShort := rfl
@[simp] theorem State.setPktIdx_run (s : State) (n : Word) : (s.setPktIdx n).run = s.run := rfl
@[simp] theorem State.setPktIdx_sync (s : State) (n : Word) : (s.setPktIdx n).sync = s.sync := rfl
@[simp] theorem State.setPktIdx_gskip (s : State) (n : Word) : (s.setPktIdx n).gskip = s.gskip := rfl
@[simp] theorem State.setPktIdx_half (s : State) (n : Word) : (s.setPktIdx n).half = s.half := rfl
@[simp] theorem State.setPktIdx_ref (s : State) (n : Word) : (s.setPktIdx n).ref = s.ref := rfl
@[simp] theorem State.setPktIdx_slotStart (s : State) (n : Word) : (s.setPktIdx n).slotStart = s.slotStart := rfl
@[simp] theorem State.setPktIdx_i1 (s : State) (n : Word) : (s.setPktIdx n).i1 = s.i1 := rfl
@[simp] theorem State.setPktIdx_pktIdx (s : State) (n : Word) : (s.setPktIdx n).pktIdx = n := rfl
@[simp] theorem State.setPktIdx_pr (s : State) (n : Word) : (s.setPktIdx n).pr = s.pr := rfl
@[simp] theorem State.setPktIdx_bb (s : State) (n : Word) : (s.setPktIdx n).bb = s.bb := rfl
@[simp] theorem State.setPktIdx_inputs (s : State) (n : Word) : (s.setPktIdx n).inputs = s.inputs := rfl
@[simp] theorem State.setPktIdx_outputs (s : State) (n : Word) : (s.setPktIdx n).outputs = s.outputs := rfl

@[simp] theorem State.setPr_fs (s : State) (l : List Word) : (s.setPr l).fs = s.fs := rfl
@[simp] theorem State.setPr_tLong (s : State) (l : List Word) : (s.setPr l).tLong = s.tLong := rfl
@[simp] theorem State.setPr_tShort (s : State) (l : List Word) : (s.setPr l).tShort = s.tShort := rfl
@[simp] theorem State.setPr_errLong (s : State) (l : List Word) : (s.setPr l).errLong = s.errLong := rfl
@[simp] theorem State.setPr_errShort (s : State) (l : List Word) : (s.setPr l).errShort = s.errShort := rfl
@[simp] theorem State.setPr_run (s : State) (l : List Word) : (s.setPr l).run = s.run := rfl
@[simp] theorem State.setPr_sync (s : State) (l : List Word) : (s.setPr l).sync = s.sync := rfl
@[simp] theorem State.setPr_gskip (s : State) (l : List Word) : (s.setPr l).gskip = s.gskip := rfl
@[simp] theorem State.setPr_half (s : State) (l : List Word) : (s.setPr l).half = s.half := rfl
@[simp] theorem State.setPr_ref (s : State) (l : List Word) : (s.setPr l).ref = s.ref := rfl
@[simp] theorem State.setPr_slotStart (s : State) (l : List Word) : (s.setPr l).slotStart = s.slotStart := rfl
@[simp] theorem State.setPr_i1 (s : State) (l : List Word) : (s.setPr l).i1 = s.i1 := rfl
@[simp] theorem State.setPr_pktIdx (s : State) (l : List Word) : (s.setPr l).pktIdx = s.pktIdx := rfl
@[simp] theorem State.setPr_pr (s : State) (l : List Word) : (s.setPr l).pr = l := rfl
@[simp] theorem State.setPr_bb (s : State) (l : List Word) : (s.setPr l).bb = s.bb := rfl
@[simp] theorem State.setPr_inputs (s : State) (l : List Word) : (s.setPr l).inputs = s.inputs := rfl
@[simp] theorem State.setPr_outputs (s : State) (l : List Word) : (s.setPr l).outputs = s.outputs := rfl

@[simp] theorem State.setBb_fs (s : State) (l : List BitInfo) : (s.setBb l).fs = s.fs := rfl
@[simp] theorem State.setBb_tLong (s : State) (l : List BitInfo) : (s.setBb l).tLong = s.tLong := rfl
@[simp] theorem State.setBb_tShort (s : State) (l : List BitInfo) : (s.setBb l).tShort = s.tShort := rfl
@[simp] theorem State.setBb_errLong (s : State) (l : List BitInfo) : (s.setBb l).errLong = s.errLong := rfl
@[simp] theorem State.setBb_errShort (s : State) (l : List BitInfo) : (s.setBb l).errShort = s.errShort := rfl
@[simp] theorem State.setBb_run (s : State) (l : List BitInfo) : (s.setBb l).run = s.run := rfl
@[simp] theorem State.setBb_sync (s : State) (l : List BitInfo) : (s.setBb l).sync = s.sync := rfl
@[simp] theorem State.setBb_gskip (s : State) (l : List BitInfo) : (s.setBb l).gskip = s.gskip := rfl
@[simp] theorem State.setBb_half (s : State) (l : List BitInfo) : (s.setBb l).half = s.half := rfl
@[simp] theorem State.setBb_ref (s : State) (l : List BitInfo) : (s.setBb l).ref = s.ref := rfl
@[simp] theorem State.setBb_slotStart (s : State) (l : List BitInfo) : (s.setBb l).slotStart = s.slotStart := rfl
@[simp] theorem State.setBb_i1 (s : State) (l : List BitInfo) : (s.setBb l).i1 = s.i1 := rfl
@[simp] theorem State.setBb_pktIdx (s : State) (l : List BitInfo) : (s.setBb l).pktIdx = s.pktIdx := rfl
@[simp] theorem State.setBb_pr (s : State) (l : List BitInfo) : (s.setBb l).pr = s.pr := rfl
@[simp] theorem State.setBb_bb (s : State) (l : List BitInfo) : (s.setBb l).bb = l := rfl
@[simp] theorem State.setBb_inputs (s : State) (l : List BitInfo) : (s.setBb l).inputs = s.inputs := rfl
@[simp] theorem State.setBb_outputs (s : State) (l : List BitInfo) : (s.setBb l).outputs = s.outputs := rfl

@[simp] theorem State.setInputs_fs (s : State) (l : List Ports) : (s.setInputs l).fs = s.fs := rfl
@[simp] theorem State.setInputs_tLong (s : State) (l : List Ports) : (s.setInputs l).tLong = s.tLong := rfl
@[simp] theorem State.setInputs_tShort (s : State) (l : List Ports) : (s.setInputs l).tShort = s.tShort := rfl
@[simp] theorem State.setInputs_errLong (s : State) (l : List Ports) : (s.setInputs l).errLong = s.errLong := rfl
@[simp] theorem State.setInputs_errShort (s : State) (l : List Ports) : (s.setInputs l).errShort = s.errShort := rfl
@[simp] theorem State.setInputs_run (s : State) (l : List Ports) : (s.setInputs l).run = s.run := rfl
@[simp] theorem State.setInputs_sync (s : State) (l : List Ports) : (s.setInputs l).sync = s.sync := rfl
@[simp] theorem State.setInputs_gskip (s : State) (l : List Ports) : (s.setInputs l).gskip = s.gskip := rfl
@[simp] theorem State.setInputs_half (s : State) (l : List Ports) : (s.setInputs l).half = s.half := rfl
@[simp] theorem State.setInputs_ref (s : State) (l : List Ports) : (s.setInputs l).ref = s.ref := rfl
@[simp] theorem State.setInputs_slotStart (s : State) (l : List Ports) : (s.setInputs l).slotStart = s.slotStart := rfl
@[simp] theorem State.setInputs_i1 (s : State) (l : List Ports) : (s.setInputs l).i1 = s.i1 := rfl
@[simp] theorem State.setInputs_pktIdx (s : State) (l : List Ports) : (s.setInputs l).pktIdx = s.pktIdx := rfl
@[simp] theorem State.setInputs_pr (s : State) (l : List Ports) : (s.setInputs l).pr = s.pr := rfl
@[simp] theorem State.setInputs_bb (s : State) (l : List Ports) : (s.setInputs l).bb = s.bb := rfl
@[simp] theorem State.setInputs_inputs (s : State) (l : List Ports) : (s.setInputs l).inputs = l := rfl
@[simp] theorem State.setInputs_outputs (s : State) (l : List Ports) : (s.setInputs l).outputs = s.outputs := rfl

@[simp] theorem State.emit_fs (s : State) (o : Output) : (s.emit o).fs = s.fs := rfl
@[simp] theorem State.emit_tLong (s : State) (o : Output) : (s.emit o).tLong = s.tLong := rfl
@[simp] theorem State.emit_tShort (s : State) (o : Output) : (s.emit o).tShort = s.tShort := rfl
@[simp] theorem State.emit_errLong (s : State) (o : Output) : (s.emit o).errLong = s.errLong := rfl
@[simp] theorem State.emit_errShort (s : State) (o : Output) : (s.emit o).errShort = s.errShort := rfl
@[simp] theorem State.emit_run (s : State) (o : Output) : (s.emit o).run = s.run := rfl
@[simp] theorem State.emit_sync (s : State) (o : Output) : (s.emit o).sync = s.sync := rfl
@[simp] theorem State.emit_gskip (s : State) (o : Output) : (s.emit o).gskip = s.gskip := rfl
@[simp] theorem State.emit_half (s : State) (o : Output) : (s.emit o).half = s.half := rfl
@[simp] theorem State.emit_ref (s : State) (o : Output) : (s.emit o).ref = s.ref := rfl
@[simp] theorem State.emit_slotStart (s : State) (o : Output) : (s.emit o).slotStart = s.slotStart := rfl
@[simp] theorem State.emit_i1 (s : State) (o : Output) : (s.emit o).i1 = s.i1 := rfl
@[simp] theorem State.emit_pktIdx (s : State) (o : Output) : (s.emit o).pktIdx = s.pktIdx := rfl
@[simp] theorem State.emit_pr (s : State) (o : Output) : (s.emit o).pr = s.pr := rfl
@[simp] theorem State.emit_bb (s : State) (o : Output) : (s.emit o).bb = s.bb := rfl
@[simp] theorem State.emit_inputs (s : State) (o : Output) : (s.emit o).inputs = s.inputs := rfl
@[simp] theorem State.emit_outputs (s : State) (o : Output) : (s.emit o).outputs = s.outputs ++ [o] := rfl

end Sys2Proof.Machine
end

