-- ==== Sys2Proof/Laws/Ops.lean ====
section
/-! SUPPORT. What each shared operation of Machine/Ops.lean does, once. -/

namespace Sys2Proof.Machine

/-! ### Records and exceptions -/

theorem emitMarker_eq (k : MarkerKind) (p : Word) (s : State) :
    emitMarker k p s = { s with outputs := s.outputs ++ [.marker ⟨k, p⟩] } := rfl

theorem appendPair_eq (a b : Word) (s : State) : appendPair a b s = { s with pr := s.pr ++ [a, b] } := rfl

theorem appendBit_eq (b : BitInfo) (s : State) : appendBit b s = { s with bb := s.bb ++ [b] } := rfl

/-- `Invalidate` writes four registers and nothing else (R207). -/
theorem invalidate_eq (s : State) :
    invalidate s = { s with sync := .hunting, pr := [], bb := [], half := false } := rfl

theorem haltRun_eq (s : State) : haltRun s = { s with bb := [], run := .halted } := rfl

/-- Each of the nine causes: its marker, then its effect (R190, R200 to R204). -/
theorem raise_eq (c : Cause) (p : Word) (s : State) :
    raise c p s =
      match c with
      | .huntingSum | .lockedSum | .lockedLong => invalidate (emitMarker .errTiming p s)
      | .directLength | .strayLength => invalidate (emitMarker .errLength p s)
      | .parityMismatch => emitMarker .errParity p s
      | .stopMismatch => emitMarker .errStop p s
      | .sourceExhausted | .cancelled => haltRun s := by
  cases c <;> rfl

/-! ### Frame assembly -/

/-- `frameParts?` answers exactly on 11 entries (R83, R152). -/
theorem frameParts?_isSome (l : List BitInfo) : (frameParts? l).isSome = decide (l.length = 11) := by
  unfold frameParts?
  split
  · rfl
  · rename_i h
    rcases l with _ | ⟨b0, _ | ⟨b1, _ | ⟨b2, _ | ⟨b3, _ | ⟨b4, _ | ⟨b5, _ | ⟨b6, _ | ⟨b7, _ | ⟨b8, _ | ⟨b9, _ |
      ⟨b10, _ | ⟨b11, l⟩⟩⟩⟩⟩⟩⟩⟩⟩⟩⟩⟩ <;> first | rfl | exact absurd rfl (h _ _ _ _ _ _ _ _ _ _ _)

theorem frameParts?_none {l : List BitInfo} (h : l.length ≠ 11) : frameParts? l = none := by
  have := frameParts?_isSome l
  simpa [h] using this

/-- The roles of a full buffer, as slices of it (R152). -/
theorem frameParts?_some {l : List BitInfo} {f : FrameParts} (h : frameParts? l = some f) :
    l = f.start :: (f.data ++ [f.parity, f.stop]) ∧ f.data.length = 8 := by
  unfold frameParts? at h
  split at h
  · cases h; simp
  · cases h

/-- The marker that tells how the parity check went (R157). -/
def parityKind (f : FrameParts) : MarkerKind := if parityOk f.data f.parity then .parityOk else .errParity

/-- The marker that tells how the stop check went (R157). -/
def stopKind (f : FrameParts) : MarkerKind := if stopOk f.stop then .stopOk else .errStop

/-- The four records of `FA_ASSEMBLE`, in order (R157). -/
def frameOutputs (f : FrameParts) (idx : Word) : List Output :=
  [.marker ⟨.start, f.start.start⟩, .marker ⟨parityKind f, f.parity.start⟩,
    .marker ⟨stopKind f, f.stop.start⟩, .frame (frameRecord f idx)]

/-- `FA_ASSEMBLE` emits four records, counts the frame and empties the buffer; nothing else changes, whatever
the checks say (R157, R158). -/
theorem assemble_eq (f : FrameParts) (s : State) :
    assemble f s =
      { s with outputs := s.outputs ++ frameOutputs f s.pktIdx, pktIdx := s.pktIdx + 1#64, bb := [] } := by
  unfold assemble markStop markParity frameOutputs parityKind stopKind
  by_cases hp : parityOk f.data f.parity <;> by_cases hs : stopOk f.stop <;>
    simp [hp, hs, raise_eq, emitMarker_eq, State.emit, State.setPktIdx, State.setBb]

/-- `save_bit` on the 1st to 10th bit of a frame: the append and nothing more (R151). -/
theorem saveBit_save {s : State} (b : BitInfo) (h : s.bb.length ≠ 10) :
    saveBit b s = { s with bb := s.bb ++ [b] } := by
  have : frameParts? (appendBit b s).bb = none := frameParts?_none (by simp [appendBit]; omega)
  rw [saveBit, this]
  rfl

/-- `save_bit` on the 11th bit: `FA_ASSEMBLE` on the 11 entries (R157). -/
theorem saveBit_assemble {s : State} (b : BitInfo) (h : s.bb.length = 10) :
    ∃ f, frameParts? (s.bb ++ [b]) = some f ∧
      saveBit b s =
        { s with outputs := s.outputs ++ frameOutputs f s.pktIdx, pktIdx := s.pktIdx + 1#64, bb := [] } := by
  have hs : (frameParts? (s.bb ++ [b])).isSome = true := by rw [frameParts?_isSome]; simp [h]
  obtain ⟨f, hf⟩ := Option.isSome_iff_exists.mp hs
  refine ⟨f, hf, ?_⟩
  have : frameParts? (appendBit b s).bb = some f := hf
  rw [saveBit, this]
  exact assemble_eq f (appendBit b s)

/-- The two outcomes of `save_bit` (R150). -/
theorem saveBit_cases (b : BitInfo) (s : State) :
    (s.bb.length ≠ 10 ∧ saveBit b s = { s with bb := s.bb ++ [b] }) ∨
    (s.bb.length = 10 ∧ ∃ f, frameParts? (s.bb ++ [b]) = some f ∧
      saveBit b s =
        { s with outputs := s.outputs ++ frameOutputs f s.pktIdx, pktIdx := s.pktIdx + 1#64, bb := [] }) := by
  by_cases h : s.bb.length = 10
  · exact .inr ⟨h, saveBit_assemble b h⟩
  · exact .inl ⟨h, saveBit_save b h⟩

/-- Everything `save_bit` can change: `BB`, `pkt_idx` and the outputs (R38). -/
theorem saveBit_frame (b : BitInfo) (s : State) :
    saveBit b s = { s with
      bb := (saveBit b s).bb, pktIdx := (saveBit b s).pktIdx, outputs := (saveBit b s).outputs } := by
  by_cases h : s.bb.length = 10
  · obtain ⟨f, -, e⟩ := saveBit_assemble b h
    rw [e]
  · rw [saveBit_save b h]

/-- `lock` is `save_bit` on the locked state with the byte counter at 0 (R126). -/
theorem lock_eq (b : BitInfo) (s : State) :
    lock b s = saveBit b { s with sync := .locked, pktIdx := 0#64 } := rfl

/-! ### Shapes the operations share -/

/-- A measured operation answers a next state exactly when `pos` is not below `ref`. -/
theorem measured_next {pos : Word} {s t : State} {e : Word → State} :
    measured pos s e = .next t ↔ s.ref.toNat ≤ pos.toNat ∧ t = e (interval pos s.ref) := by
  unfold measured
  split
  · constructor
    · intro h; cases h
    · rintro ⟨h, -⟩; omega
  · constructor
    · intro h; cases h; exact ⟨by omega, rfl⟩
    · rintro ⟨-, rfl⟩; rfl

theorem measured_of_le {pos : Word} {s : State} (h : s.ref.toNat ≤ pos.toNat) (e : Word → State) :
    measured pos s e = .next (e (interval pos s.ref)) := measured_next.mpr ⟨h, rfl⟩

theorem measured_of_lt {pos : Word} {s : State} (h : pos.toNat < s.ref.toNat) (e : Word → State) :
    measured pos s e = .refused .edgeBelowRef := by simp [measured, h]

/-- The interval as a number, when it does not borrow (R76). -/
theorem interval_toNat {pos ref : Word} (h : ref.toNat ≤ pos.toNat) :
    (interval pos ref).toNat = pos.toNat - ref.toNat := by
  unfold interval
  have := ref.isLt
  have := pos.isLt
  rw [BitVec.toNat_sub]
  omega

/-- The interval of an event written as `pos = ref + d`. -/
theorem interval_of_add {pos ref : Word} {d : Nat} (h : pos.toNat = ref.toNat + d) :
    interval pos ref = BitVec.ofNat 64 d := by
  apply BitVec.eq_of_toNat_eq
  have := pos.isLt
  rw [interval_toNat (by omega), BitVec.toNat_ofNat]
  omega

theorem startSlot_eq (pos d : Word) (s : State) :
    startSlot pos d s = { s with slotStart := s.ref, i1 := d, ref := pos, half := true } := rfl

theorem skipShort_eq (pos : Word) (s : State) :
    skipShort pos s = { s with
      outputs := s.outputs ++ [.marker ⟨.errSkipped, s.slotStart⟩], ref := pos, half := false } := rfl

theorem rejectOnSecond_eq (pos : Word) (s : State) :
    rejectOnSecond pos s = { s with
      outputs := s.outputs ++ [.marker ⟨.errSkipped, s.slotStart⟩] ++ [.marker ⟨.errLength, s.ref⟩],
      ref := pos, half := false, sync := .hunting, pr := [], bb := [] } := by
  simp only [rejectOnSecond, raise_eq, invalidate_eq, emitMarker_eq, skipShort_eq]

theorem failSlot_timing {c : Cause} (h : c.violation = .timing) (pos : Word) (s : State) :
    failSlot c pos s = { s with
      outputs := s.outputs ++ [.marker ⟨.errTiming, s.slotStart⟩],
      ref := pos, half := false, sync := .hunting, pr := [], bb := [] } := by
  cases c <;> first
    | cases h; done
    | simp only [failSlot, raise_eq, invalidate_eq, emitMarker_eq, State.setRef]

theorem endRun_eq (s : State) (c : Cause) (h : c = .sourceExhausted ∨ c = .cancelled) :
    endRun c s = if s.run = .halted then s else { s with bb := [], run := .halted } := by
  rcases h with rfl | rfl <;> by_cases hr : s.run = .halted <;>
    simp [endRun, halted, hr, raise_eq, haltRun_eq]

end Sys2Proof.Machine
end

