-- ==== Sys2Proof/Laws/Exec.lean ====
section
/-! SUPPORT. What `exec` is on each constructor, in terms of the shared operations, so that no proof unfolds the
dispatch. -/

namespace Sys2Proof.Machine

theorem exec_eHalt (pos : Word) (s : State) : exec (.eHalt pos) s = .next s := rfl

theorem exec_eGskip (pos : Word) (s : State) : exec (.eGskip pos) s = .next (s.setGskip false) := rfl

theorem exec_eGlitch (pos : Word) (s : State) :
    exec (.eGlitch pos) s = measured pos s fun _ => s.setGskip true := rfl

theorem exec_hShort1 (pos : Word) (s : State) :
    exec (.hShort1 pos) s = measured pos s fun d => startSlot pos d s := rfl

theorem exec_hLock (pos : Word) (s : State) :
    exec (.hLock pos) s = measured pos s fun _ => lock ⟨s.ref, pos, .zero⟩ (s.setRef pos) := rfl

theorem exec_hLenerr (pos : Word) (s : State) :
    exec (.hLenerr pos) s = measured pos s fun _ => raise .directLength s.ref (s.setRef pos) := rfl

theorem exec_hOne (pos : Word) (s : State) :
    exec (.hOne pos) s = measured pos s fun _ =>
      ((emitMarker .preambleBit s.slotStart (appendPair s.slotStart pos s)).setRef pos).setHalf false := rfl

theorem exec_hLock2 (pos : Word) (s : State) :
    exec (.hLock2 pos) s = measured pos s fun _ => lockOnSecond pos s := rfl

theorem exec_hLock2Shared (pos : Word) (s : State) :
    exec (.hLock2Shared pos) s = measured pos s fun _ => lockOnSecond pos s := rfl

theorem exec_hLenerr2 (pos : Word) (s : State) :
    exec (.hLenerr2 pos) s = measured pos s fun _ => rejectOnSecond pos s := rfl

theorem exec_hLenerr2Shared (pos : Word) (s : State) :
    exec (.hLenerr2Shared pos) s = measured pos s fun _ => rejectOnSecond pos s := rfl

theorem exec_hTerr (pos : Word) (s : State) :
    exec (.hTerr pos) s = measured pos s fun _ => failSlot .huntingSum pos s := rfl

theorem exec_lShort1 (pos : Word) (s : State) :
    exec (.lShort1 pos) s = measured pos s fun d => startSlot pos d s := rfl

theorem exec_lZero (pos : Word) (s : State) :
    exec (.lZero pos) s = measured pos s fun _ => saveBit ⟨s.ref, pos, .zero⟩ (s.setRef pos) := rfl

theorem exec_lOne (pos : Word) (s : State) :
    exec (.lOne pos) s = measured pos s fun _ =>
      saveBit ⟨s.slotStart, pos, .one⟩ ((s.setRef pos).setHalf false) := rfl

theorem exec_lTerrLong (pos : Word) (s : State) :
    exec (.lTerrLong pos) s = measured pos s fun _ => failSlot .lockedLong pos s := rfl

theorem exec_lTerrSum (pos : Word) (s : State) :
    exec (.lTerrSum pos) s = measured pos s fun _ => failSlot .lockedSum pos s := rfl

theorem exec_edge (pos : Word) (s : State) :
    exec (.edge pos) s = exec ((selectRow (dispatchBits pos s)).instr pos) s := by
  show perform (selectRow (dispatchBits pos s)) pos s = _
  cases selectRow (dispatchBits pos s) <;> rfl

theorem exec_eos (s : State) : exec .eos s = .next (endRun .sourceExhausted s) := rfl

theorem exec_cancel (s : State) : exec .cancel s = .next (endRun .cancelled s) := rfl

theorem exec_rst (cfgFs cfgStart : Word) (s : State) :
    exec (.rst cfgFs cfgStart) s =
      if supportedRate cfgFs then
        .next { State.afterReset cfgFs cfgStart with inputs := s.inputs, outputs := s.outputs }
      else .refused .unsupportedSampleRate := rfl

theorem exec_faSave (s : State) : exec .faSave s = .next s := rfl

theorem exec_faAssemble (s : State) :
    exec .faAssemble s =
      match frameParts? s.bb with
      | some f => .next (assemble f s)
      | none => .fault .assembleWithoutElevenBits := rfl

/-- A row that measures refuses an edge below `ref`; any other row does not look at `pos` (U1). -/
theorem exec_row_below {op : DvOp} {pos : Word} {s : State} (h : pos.toNat < s.ref.toNat) (h1 : op ≠ .eHalt)
    (h2 : op ≠ .eGskip) : exec (op.instr pos) s = .refused .edgeBelowRef := by
  cases op <;> first
    | exact absurd rfl h1
    | exact absurd rfl h2
    | simp only [DvOp.instr, exec_eGlitch, exec_hShort1, exec_hLock, exec_hLenerr, exec_hOne, exec_hLock2,
        exec_hLock2Shared, exec_hLenerr2, exec_hLenerr2Shared, exec_hTerr, exec_lShort1, exec_lZero, exec_lOne,
        exec_lTerrLong, exec_lTerrSum, measured_of_lt h]

end Sys2Proof.Machine
end

