-- ==== Sys2Proof/Laws/Control.lean ====
section
/-! SUPPORT. What an `EDGE` can do, said once, and what one step can do. -/

namespace Sys2Proof.Machine

/-- Performing a dispatch row is executing its operation. -/
theorem perform_eq_exec (op : DvOp) (pos : Word) (s : State) : perform op pos s = exec (op.instr pos) s := by
  cases op <;> rfl

/-- The event is measured: the block runs, no edge is being skipped, and `pos` is not below `ref` (R101). -/
structure Measures (pos : Word) (s : State) : Prop where
  run : s.run = .running
  gskip : s.gskip = false
  order : s.ref.toNat ≤ pos.toNat

/-- The number of the interval an event measures. -/
def dist (pos : Word) (s : State) : Nat := (interval pos s.ref).toNat

/-- Every way an `EDGE` answers a next state, with the condition of its row (R81). -/
inductive EdgeCase (pos : Word) (s : State) : State → Prop where
  | halted (run : s.run = .halted) : EdgeCase pos s s
  | gskip (run : s.run = .running) (g : s.gskip = true) : EdgeCase pos s (s.setGskip false)
  | glitch (m : Measures pos s) (short : isShort s (dist pos s) = false)
      (long : isLong s (dist pos s) = false) : EdgeCase pos s (s.setGskip true)
  | short1 (m : Measures pos s) (half : s.half = false) (short : isShort s (dist pos s) = true) :
      EdgeCase pos s (startSlot pos (interval pos s.ref) s)
  | hLock (m : Measures pos s) (sync : s.sync = .hunting) (half : s.half = false)
      (short : isShort s (dist pos s) = false) (long : isLong s (dist pos s) = true)
      (len : lengthOk s = true) : EdgeCase pos s (lock ⟨s.ref, pos, .zero⟩ (s.setRef pos))
  | hLenerr (m : Measures pos s) (sync : s.sync = .hunting) (half : s.half = false)
      (short : isShort s (dist pos s) = false) (long : isLong s (dist pos s) = true)
      (len : lengthOk s = false) : EdgeCase pos s (raise .directLength s.ref (s.setRef pos))
  | hOne (m : Measures pos s) (sync : s.sync = .hunting) (half : s.half = true)
      (short : isShort s (dist pos s) = true) (sum : isLong s (slotSum s (dist pos s)) = true) :
      EdgeCase pos s
        (((emitMarker .preambleBit s.slotStart (appendPair s.slotStart pos s)).setRef pos).setHalf false)
  | hLock2 (m : Measures pos s) (sync : s.sync = .hunting) (half : s.half = true)
      (long : isLong s (dist pos s) = true)
      (notOne : isShort s (dist pos s) = false ∨ isLong s (slotSum s (dist pos s)) = false)
      (len : lengthOk s = true) : EdgeCase pos s (lockOnSecond pos s)
  | hLenerr2 (m : Measures pos s) (sync : s.sync = .hunting) (half : s.half = true)
      (long : isLong s (dist pos s) = true)
      (notOne : isShort s (dist pos s) = false ∨ isLong s (slotSum s (dist pos s)) = false)
      (len : lengthOk s = false) : EdgeCase pos s (rejectOnSecond pos s)
  | hTerr (m : Measures pos s) (sync : s.sync = .hunting) (half : s.half = true)
      (short : isShort s (dist pos s) = true) (long : isLong s (dist pos s) = false)
      (sum : isLong s (slotSum s (dist pos s)) = false) : EdgeCase pos s (failSlot .huntingSum pos s)
  | lZero (m : Measures pos s) (sync : s.sync = .locked) (half : s.half = false)
      (short : isShort s (dist pos s) = false) (long : isLong s (dist pos s) = true) :
      EdgeCase pos s (saveBit ⟨s.ref, pos, .zero⟩ (s.setRef pos))
  | lOne (m : Measures pos s) (sync : s.sync = .locked) (half : s.half = true)
      (short : isShort s (dist pos s) = true) (sum : isLong s (slotSum s (dist pos s)) = true) :
      EdgeCase pos s (saveBit ⟨s.slotStart, pos, .one⟩ ((s.setRef pos).setHalf false))
  | lTerr (m : Measures pos s) (sync : s.sync = .locked) (half : s.half = true)
      (c : Cause) (cause : c = .lockedLong ∨ c = .lockedSum)
      (qual : isShort s (dist pos s) = true ∨ isLong s (dist pos s) = true)
      (notOne : isShort s (dist pos s) = false ∨ isLong s (slotSum s (dist pos s)) = false) :
      EdgeCase pos s (failSlot c pos s)

/-- The condition bits, as facts about the state (R80). -/
theorem dispatchBits_facts (pos : Word) (s : State) :
    ((dispatchBits pos s).ht = true ↔ s.run = .halted) ∧
    ((dispatchBits pos s).ht = false ↔ s.run = .running) ∧
    (dispatchBits pos s).gs = s.gskip ∧
    ((dispatchBits pos s).lk = true ↔ s.sync = .locked) ∧
    ((dispatchBits pos s).lk = false ↔ s.sync = .hunting) ∧
    (dispatchBits pos s).hf = s.half ∧
    (dispatchBits pos s).s = isShort s (dist pos s) ∧
    (dispatchBits pos s).l = isLong s (dist pos s) ∧
    (dispatchBits pos s).ls = (s.half && isLong s (slotSum s (dist pos s))) ∧
    (dispatchBits pos s).pl = lengthOk s := by
  refine ⟨?_, ?_, rfl, ?_, ?_, rfl, rfl, rfl, rfl, rfl⟩
  · simp [dispatchBits, Machine.halted]
  · cases h : s.run <;> simp [dispatchBits, Machine.halted, h]
  · simp [dispatchBits, Machine.locked]
  · cases h : s.sync <;> simp [dispatchBits, Machine.locked, h]

/-- If `EDGE` answers a next state, it is one of these (R81, R170). -/
theorem edge_cases {pos : Word} {s t : State} (h : exec (.edge pos) s = .next t) : EdgeCase pos s t := by
  have hp : perform (selectRow (dispatchBits pos s)) pos s = .next t := h
  have hd := (selectRow_iff (dispatchBits pos s) _).mp rfl
  obtain ⟨f1, f2, f3, f4, f5, f6, f7, f8, f9, f10⟩ := dispatchBits_facts pos s
  generalize selectRow (dispatchBits pos s) = op at hp hd
  cases op <;> simp only [DvOp.demands, f1, f2, f3, f4, f5, f6, f7, f8, f9, f10] at hd
  case eHalt => cases hp; exact .halted hd
  case eGskip => cases hp; exact .gskip hd.1 hd.2
  all_goals
    simp only [perform, execEGlitch, execHShort1, execHLock, execHLenerr, execHOne, execHLock2, execHLock2Shared,
      execHLenerr2, execHLenerr2Shared, execHTerr, execLShort1, execLZero, execLOne, execLTerrLong,
      execLTerrSum] at hp
    obtain ⟨hle, rfl⟩ := measured_next.mp hp
    obtain ⟨hr, hg, hd⟩ := hd
    have m : Measures pos s := ⟨hr, hg, hle⟩
  case eGlitch => exact .glitch m hd.1 hd.2
  case hShort1 => exact .short1 m hd.2.1 hd.2.2
  case hLock => exact .hLock m hd.1 hd.2.1 hd.2.2.1 hd.2.2.2.1 hd.2.2.2.2
  case hLenerr => exact .hLenerr m hd.1 hd.2.1 hd.2.2.1 hd.2.2.2.1 hd.2.2.2.2
  case lShort1 => exact .short1 m hd.2.1 hd.2.2
  case lZero => exact .lZero m hd.1 hd.2.1 hd.2.2.1 hd.2.2.2
  all_goals
    obtain ⟨hy, hh, hd⟩ := hd
    try simp only [hh, Bool.true_and] at hd
  case hOne => exact .hOne m hy hh hd.1 hd.2
  case hLock2 => exact .hLock2 m hy hh hd.2.1 (.inl hd.1) hd.2.2
  case hLock2Shared => exact .hLock2 m hy hh hd.2.1 (.inr hd.2.2.1) hd.2.2.2
  case hLenerr2 => exact .hLenerr2 m hy hh hd.2.1 (.inl hd.1) hd.2.2
  case hLenerr2Shared => exact .hLenerr2 m hy hh hd.2.1 (.inr hd.2.2.1) hd.2.2.2
  case hTerr => exact .hTerr m hy hh hd.1 hd.2.1 hd.2.2
  case lOne => exact .lOne m hy hh hd.1 hd.2
  case lTerrLong => exact .lTerr m hy hh .lockedLong (.inl rfl) (.inr hd.2) (.inl hd.1)
  case lTerrSum => exact .lTerr m hy hh .lockedSum (.inr rfl) (.inl hd.1) (.inr hd.2)

/-- `EDGE` performs the row whose demands hold (R81, R170). -/
theorem edge_of_demands {pos : Word} {s : State} {op : DvOp} (h : op.demands (dispatchBits pos s)) :
    exec (.edge pos) s = exec (op.instr pos) s := by
  rw [← perform_eq_exec, ← (selectRow_iff _ _).mpr h]
  rfl

/-- What one step can do: hold with nothing presented or nothing asked for, reset, take an event. -/
theorem step_cases {s t : State} (h : step s = .next t) :
    (s.inputs = [] ∧ t = s) ∨
    ∃ p rest, s.inputs = p :: rest ∧
      ((fetch p = .idle ∧ t = s.setInputs rest) ∨
       ∃ i, fetch p = .instr i ∧ exec i (s.setInputs rest) = .next t) := by
  unfold step at h
  split at h
  · rename_i hi
    cases h
    exact .inl ⟨hi, rfl⟩
  · rename_i p rest hi
    refine .inr ⟨p, rest, hi, ?_⟩
    split at h
    · rename_i hf; cases h; exact .inl ⟨hf, rfl⟩
    · rename_i i hf; exact .inr ⟨i, hf, h⟩
    · cases h

/-- Every way a step answers a next state, down to the operation performed (R10). -/
inductive StepCase (s : State) : State → Prop where
  | none (inputs : s.inputs = []) : StepCase s s
  | idle (p : Ports) (rest : List Ports) (inputs : s.inputs = p :: rest) (rst : p.rst = false) :
      StepCase s (s.setInputs rest)
  | reset (p : Ports) (rest : List Ports) (inputs : s.inputs = p :: rest) (rst : p.rst = true)
      (rate : supportedRate p.cfgFs = true) :
      StepCase s { State.afterReset p.cfgFs p.cfgStart with inputs := rest, outputs := s.outputs }
  | halt (p : Ports) (rest : List Ports) (inputs : s.inputs = p :: rest) (rst : p.rst = false) (c : Cause)
      (cause : c = .sourceExhausted ∨ c = .cancelled) : StepCase s (endRun c (s.setInputs rest))
  | edge (p : Ports) (rest : List Ports) (t : State) (inputs : s.inputs = p :: rest) (rst : p.rst = false)
      (asks : fetch p = .instr (.edge (evPos p.ev))) (row : EdgeCase (evPos p.ev) (s.setInputs rest) t) :
      StepCase s t

/-- If a step answers a next state, it is one of these. -/
theorem step_inv {s t : State} (h : step s = .next t) : StepCase s t := by
  rcases step_cases h with ⟨hi, rfl⟩ | ⟨p, rest, hi, ⟨hf, rfl⟩ | ⟨i, hf, he⟩⟩
  · exact .none hi
  · rcases fetch_cases p with ⟨-, hr, -⟩ | ⟨hr, -⟩ | ⟨hr, -⟩
    · exact .idle p rest hi hr
    · rw [hf] at hr; cases hr
    · exact .idle p rest hi hr
  · rcases fetch_cases p with ⟨h, -⟩ | ⟨h, hr⟩ | ⟨hr, -, ⟨h, -⟩ | ⟨h, -⟩ | ⟨h, -⟩ | ⟨h, -⟩⟩ <;>
      rw [hf] at h <;> cases h
    · rw [exec_rst] at he
      split at he
      · rename_i hs; cases he; exact .reset p rest hi hr hs
      · cases he
    · exact .edge p rest t hi hr hf (edge_cases he)
    · cases he; exact .halt p rest hi hr _ (.inl rfl)
    · cases he; exact .halt p rest hi hr _ (.inr rfl)

end Sys2Proof.Machine
end

