-- ==== Sys2Proof/Laws/PerInstr.lean ====
section
/-! SUPPORT. The family `EncodingMatchesTable`: the word the encoder writes for an operation matches that
operation's row of spec/opcode_table.json. -/

namespace Sys2Proof.Laws.EncodingMatchesTable

/-- One row of spec/opcode_table.json: its format, its mask and its match. -/
structure Row where
  format : Format
  mask : Nat
  value : Nat
deriving DecidableEq, Repr

/-- The row of an operation, as spec/opcode_table.json gives it. -/
def row : Instr → Row
  | .eHalt _ => ⟨.DV, 0x80, 0x80⟩
  | .eGskip _ => ⟨.DV, 0xc0, 0x40⟩
  | .eGlitch _ => ⟨.DV, 0xcc, 0x00⟩
  | .hShort1 _ => ⟨.DV, 0xf8, 0x08⟩
  | .hLock _ => ⟨.DV, 0xfd, 0x05⟩
  | .hLenerr _ => ⟨.DV, 0xfd, 0x04⟩
  | .hOne _ => ⟨.DV, 0xfa, 0x1a⟩
  | .hLock2 _ => ⟨.DV, 0xfd, 0x15⟩
  | .hLock2Shared _ => ⟨.DV, 0xff, 0x1d⟩
  | .hLenerr2 _ => ⟨.DV, 0xfd, 0x14⟩
  | .hLenerr2Shared _ => ⟨.DV, 0xff, 0x1c⟩
  | .hTerr _ => ⟨.DV, 0xfe, 0x18⟩
  | .lShort1 _ => ⟨.DV, 0xf8, 0x28⟩
  | .lZero _ => ⟨.DV, 0xfc, 0x24⟩
  | .lOne _ => ⟨.DV, 0xfa, 0x3a⟩
  | .lTerrLong _ => ⟨.DV, 0xfc, 0x34⟩
  | .lTerrSum _ => ⟨.DV, 0xfa, 0x38⟩
  | .edge _ => ⟨.EV, 0x30000000000000000, 0x00000000000000000⟩
  | .eos => ⟨.EV, 0x30000000000000000, 0x10000000000000000⟩
  | .cancel => ⟨.EV, 0x30000000000000000, 0x20000000000000000⟩
  | .rst _ _ => ⟨.SIG, 0x1, 0x1⟩
  | .faSave => ⟨.FA, 0x1, 0x0⟩
  | .faAssemble => ⟨.FA, 0x1, 0x1⟩

/-- A word matches a row: it has the row's format, and its bits under the row's mask are the row's match. -/
def accepts (r : Row) : OpWord → Prop
  | .ev w => r.format = .EV ∧ w &&& BitVec.ofNat 66 r.mask = BitVec.ofNat 66 r.value
  | .sig rst _ _ => r.format = .SIG ∧ rst &&& BitVec.ofNat 1 r.mask = BitVec.ofNat 1 r.value
  | .dv v _ => r.format = .DV ∧ v &&& BitVec.ofNat 8 r.mask = BitVec.ofNat 8 r.value
  | .fa bf => r.format = .FA ∧ bf &&& BitVec.ofNat 1 r.mask = BitVec.ofNat 1 r.value

/-- The encoded word of the operation matches its row. -/
def Statement (i : Instr) : Prop := accepts (row i) (encode i)

/-- Masking an event word with the mask of `op` leaves `op` alone. -/
theorem evWord_and_mask (op : BitVec 2) (pos : Word) :
    evWord op pos &&& 0x30000000000000000#66 = evWord op 0#64 := by
  have h : (0x30000000000000000#66 : EvWord) = evWord 3#2 0#64 := by decide
  rw [h]
  apply BitVec.eq_of_getLsbD_eq
  intro i hi
  rw [BitVec.getLsbD_and, evWord_bit, evWord_bit, evWord_bit]
  by_cases h64 : i < 64
  · simp [h64]
  · obtain h0 | h1 : i - 64 = 0 ∨ i - 64 = 1 := by omega
    · simp [h64, h0]
    · simp [h64, h1]

theorem eHalt (pos : Word) : Statement (.eHalt pos) :=
  ⟨rfl, show DvOp.eHalt.word &&& BitVec.ofNat 8 0x80 = BitVec.ofNat 8 0x80 by decide⟩

theorem eGskip (pos : Word) : Statement (.eGskip pos) :=
  ⟨rfl, show DvOp.eGskip.word &&& BitVec.ofNat 8 0xc0 = BitVec.ofNat 8 0x40 by decide⟩

theorem eGlitch (pos : Word) : Statement (.eGlitch pos) :=
  ⟨rfl, show DvOp.eGlitch.word &&& BitVec.ofNat 8 0xcc = BitVec.ofNat 8 0x00 by decide⟩

theorem hShort1 (pos : Word) : Statement (.hShort1 pos) :=
  ⟨rfl, show DvOp.hShort1.word &&& BitVec.ofNat 8 0xf8 = BitVec.ofNat 8 0x08 by decide⟩

theorem hLock (pos : Word) : Statement (.hLock pos) :=
  ⟨rfl, show DvOp.hLock.word &&& BitVec.ofNat 8 0xfd = BitVec.ofNat 8 0x05 by decide⟩

theorem hLenerr (pos : Word) : Statement (.hLenerr pos) :=
  ⟨rfl, show DvOp.hLenerr.word &&& BitVec.ofNat 8 0xfd = BitVec.ofNat 8 0x04 by decide⟩

theorem hOne (pos : Word) : Statement (.hOne pos) :=
  ⟨rfl, show DvOp.hOne.word &&& BitVec.ofNat 8 0xfa = BitVec.ofNat 8 0x1a by decide⟩

theorem hLock2 (pos : Word) : Statement (.hLock2 pos) :=
  ⟨rfl, show DvOp.hLock2.word &&& BitVec.ofNat 8 0xfd = BitVec.ofNat 8 0x15 by decide⟩

theorem hLock2Shared (pos : Word) : Statement (.hLock2Shared pos) :=
  ⟨rfl, show DvOp.hLock2Shared.word &&& BitVec.ofNat 8 0xff = BitVec.ofNat 8 0x1d by decide⟩

theorem hLenerr2 (pos : Word) : Statement (.hLenerr2 pos) :=
  ⟨rfl, show DvOp.hLenerr2.word &&& BitVec.ofNat 8 0xfd = BitVec.ofNat 8 0x14 by decide⟩

theorem hLenerr2Shared (pos : Word) : Statement (.hLenerr2Shared pos) :=
  ⟨rfl, show DvOp.hLenerr2Shared.word &&& BitVec.ofNat 8 0xff = BitVec.ofNat 8 0x1c by decide⟩

theorem hTerr (pos : Word) : Statement (.hTerr pos) :=
  ⟨rfl, show DvOp.hTerr.word &&& BitVec.ofNat 8 0xfe = BitVec.ofNat 8 0x18 by decide⟩

theorem lShort1 (pos : Word) : Statement (.lShort1 pos) :=
  ⟨rfl, show DvOp.lShort1.word &&& BitVec.ofNat 8 0xf8 = BitVec.ofNat 8 0x28 by decide⟩

theorem lZero (pos : Word) : Statement (.lZero pos) :=
  ⟨rfl, show DvOp.lZero.word &&& BitVec.ofNat 8 0xfc = BitVec.ofNat 8 0x24 by decide⟩

theorem lOne (pos : Word) : Statement (.lOne pos) :=
  ⟨rfl, show DvOp.lOne.word &&& BitVec.ofNat 8 0xfa = BitVec.ofNat 8 0x3a by decide⟩

theorem lTerrLong (pos : Word) : Statement (.lTerrLong pos) :=
  ⟨rfl, show DvOp.lTerrLong.word &&& BitVec.ofNat 8 0xfc = BitVec.ofNat 8 0x34 by decide⟩

theorem lTerrSum (pos : Word) : Statement (.lTerrSum pos) :=
  ⟨rfl, show DvOp.lTerrSum.word &&& BitVec.ofNat 8 0xfa = BitVec.ofNat 8 0x38 by decide⟩

theorem edge (pos : Word) : Statement (.edge pos) :=
  ⟨rfl, show evWord 0#2 pos &&& BitVec.ofNat 66 0x30000000000000000 = BitVec.ofNat 66 0x00000000000000000 from
    (evWord_and_mask 0#2 pos).trans (by decide)⟩

theorem eos : Statement .eos := ⟨rfl, by decide⟩

theorem cancel : Statement .cancel := ⟨rfl, by decide⟩

theorem rst (cfgFs cfgStart : Word) : Statement (.rst cfgFs cfgStart) :=
  ⟨rfl, show 1#1 &&& BitVec.ofNat 1 0x1 = BitVec.ofNat 1 0x1 by decide⟩

theorem faSave : Statement .faSave := ⟨rfl, by decide⟩

theorem faAssemble : Statement .faAssemble := ⟨rfl, by decide⟩

end Sys2Proof.Laws.EncodingMatchesTable
end

