-- ==== Sys2Proof/Laws/Records.lean ====
section
/-! SUPPORT. The bits of the packed records, for reading a field back. -/

namespace Sys2Proof.Machine

/-- The bits of six fields laid one above the other. -/
theorem append_six_bit {a b c d e g : Nat} (x1 : BitVec a) (x2 : BitVec b) (x3 : BitVec c) (x4 : BitVec d)
    (x5 : BitVec e) (x6 : BitVec g) (i : Nat) :
    (x1 ++ x2 ++ x3 ++ x4 ++ x5 ++ x6).getLsbD i =
      if i < g then x6.getLsbD i
      else if i - g < e then x5.getLsbD (i - g)
      else if i - g - e < d then x4.getLsbD (i - g - e)
      else if i - g - e - d < c then x3.getLsbD (i - g - e - d)
      else if i - g - e - d - c < b then x2.getLsbD (i - g - e - d - c)
      else x1.getLsbD (i - g - e - d - c - b) := by
  simp only [BitVec.getLsbD_append]

/-- The bits of a Frame word (R84). -/
theorem Frame.pack_bit (f : Frame) (i : Nat) :
    f.pack.getLsbD i =
      if i < 1 then (BitVec.ofBool f.stopOk).getLsbD i
      else if i - 1 < 1 then (BitVec.ofBool f.parityOk).getLsbD (i - 1)
      else if i - 1 - 1 < 8 then f.byte.getLsbD (i - 1 - 1)
      else if i - 1 - 1 - 8 < 64 then f.idx.getLsbD (i - 1 - 1 - 8)
      else if i - 1 - 1 - 8 - 64 < 64 then f.last.getLsbD (i - 1 - 1 - 8 - 64)
      else f.first.getLsbD (i - 1 - 1 - 8 - 64 - 64) :=
  append_six_bit f.first f.last f.idx f.byte (BitVec.ofBool f.parityOk) (BitVec.ofBool f.stopOk) i

/-- The bits of a Marker word (R85). -/
theorem Marker.pack_bit (m : Marker) (i : Nat) :
    m.pack.getLsbD i = if i < 64 then m.pos.getLsbD i else m.kind.code.getLsbD (i - 64) :=
  BitVec.getLsbD_append (x := m.kind.code) (y := m.pos)

end Sys2Proof.Machine
end

