-- ==== Sys2Proof/Tests/Slice0.lean ====
section
/-! SUPPORT. Tests: ill-formed terms, decoding of words written out from the spec, one step per operation with
the values of the rules' own examples, and a witness for each statement that has hypotheses. -/

namespace Sys2Proof.Tests
open Sys2Proof.Machine

/-! ### WellFormed and decoding -/

/-- R30, U2: one below the minimum rate is ill formed, the minimum is not. -/
theorem test_wf_rate : Instr.wf (.rst 39999#64 0#64) = false ∧ Instr.wf (.rst 40000#64 0#64) = true := by decide

/-- U3: the reserved `op` is rejected by name. A `SIG` word whose `rst` is 0 asks for nothing. -/
theorem test_decode_rejects :
    decode (.ev 0x30000000000000007#66) = .reservedEventOp ∧ decode (.sig 0#1 40000#64 0#64) = .resetNotAsserted := by
  decide

/-- R71: `op` in bits 65:64, `pos` in bits 63:0, ignored by `EOS` and `CANCEL`. -/
theorem test_decode_events :
    decode (.ev 0x00123456789abcdef#66) = .instr (.edge 0x0123456789abcdef#64) ∧
    decode (.ev 0x0ffffffffffffffff#66) = .instr (.edge 0xffffffffffffffff#64) ∧
    decode (.ev 0x10000000000000005#66) = .instr .eos ∧
    decode (.ev 0x20000000000000005#66) = .instr .cancel := by decide

/-- R177: the reset signal with its side inputs. R83: the assembler condition. -/
theorem test_decode_signals :
    decode (.sig 0b1#1 4000000#64 9#64) = .instr (.rst 4000000#64 9#64) ∧
    decode (.fa 0b0#1) = .instr .faSave ∧ decode (.fa 0b1#1) = .instr .faAssemble := by decide

/-- R81: a word of every row while hunting or in either state, written from the row's columns, free bits both
ways. -/
theorem test_decode_dv_hunting :
    decode (.dv 0b10000000#8 1#64) = .instr (.eHalt 1#64) ∧
    decode (.dv 0b11111111#8 1#64) = .instr (.eHalt 1#64) ∧
    decode (.dv 0b01111111#8 1#64) = .instr (.eGskip 1#64) ∧
    decode (.dv 0b00110011#8 1#64) = .instr (.eGlitch 1#64) ∧
    decode (.dv 0b00001111#8 1#64) = .instr (.hShort1 1#64) ∧
    decode (.dv 0b00000111#8 1#64) = .instr (.hLock 1#64) ∧
    decode (.dv 0b00000110#8 1#64) = .instr (.hLenerr 1#64) ∧
    decode (.dv 0b00011111#8 1#64) = .instr (.hOne 1#64) ∧
    decode (.dv 0b00010111#8 1#64) = .instr (.hLock2 1#64) ∧
    decode (.dv 0b00011101#8 1#64) = .instr (.hLock2Shared 1#64) ∧
    decode (.dv 0b00010110#8 1#64) = .instr (.hLenerr2 1#64) ∧
    decode (.dv 0b00011100#8 1#64) = .instr (.hLenerr2Shared 1#64) ∧
    decode (.dv 0b00011001#8 1#64) = .instr (.hTerr 1#64) := by decide

theorem test_decode_dv_locked :
    decode (.dv 0b00101111#8 1#64) = .instr (.lShort1 1#64) ∧
    decode (.dv 0b00100111#8 1#64) = .instr (.lZero 1#64) ∧
    decode (.dv 0b00111111#8 1#64) = .instr (.lOne 1#64) ∧
    decode (.dv 0b00110111#8 1#64) = .instr (.lTerrLong 1#64) ∧
    decode (.dv 0b00111101#8 1#64) = .instr (.lTerrSum 1#64) := by decide

/-- The numbering of spec/opcode_table.json: `EV` rows 66 bits (72 in whole bytes), `DV` rows 8. -/
theorem test_table_words :
    decodeTableWord 72 0x00000000000002710 = some (.edge 10000#64) ∧
    decodeTableWord 72 0x20000000000000000 = some .cancel ∧
    decodeTableWord 72 0x30000000000000000 = none ∧
    decodeTableWord 8 0x1d = some (.hLock2Shared 11500#64) ∧
    decodeTableWord 1 1 = some .faAssemble := by decide

/-! ### One step per operation -/

/-- The next state of an outcome. -/
def nextOf : Host.Outcome State Fault Refusal → Option State
  | .next t => some t
  | .fault _ => none
  | .refused _ => none

/-- The refusal of an outcome. -/
def refusalOf : Host.Outcome State Fault Refusal → Option Refusal
  | .next _ => none
  | .fault _ => none
  | .refused r => some r

/-- Hunting between slots at `ref`, with `n` preamble Ones recorded, `fs = 4000000`. -/
def huntingAt (ref : Word) (n : Nat) : State := { State.reset with ref := ref, pr := List.replicate (2 * n) 0#64 }

/-- Hunting with a first Short of length `i1` received from `start`. -/
def huntingHalf (start i1 : Word) (n : Nat) : State :=
  { huntingAt (start + i1) n with half := true, slotStart := start, i1 := i1 }

/-- `n` Zero bits of 2000 samples that end at `e`. -/
def zerosTo (e : Word) : Nat → List BitInfo
  | 0 => []
  | n + 1 => zerosTo (e - 2000#64) n ++ [⟨e - 2000#64, e, .zero⟩]

/-- Locked between slots at `ref`, `n` bits buffered. -/
def lockedAt (ref : Word) (n : Nat) : State :=
  { huntingAt ref 11 with sync := .locked, bb := zerosTo ref n, pktIdx := 3#64 }

/-- Locked with a first Short of length `i1` received from `start`. -/
def lockedHalf (start i1 : Word) (n : Nat) : State :=
  { lockedAt start n with ref := start + i1, half := true, slotStart := start, i1 := i1 }

/-- The run is over. -/
def haltedState : State := { State.reset with run := .halted }

/-- R103, R104 examples: `EDGE(10100)` at `ref` 10000 is a Glitch, `EDGE(10150)` is skipped, `EDGE(11000)` is
Short. -/
theorem test_glitch :
    (nextOf (exec (.edge 10100#64) (huntingAt 10000#64 0))).map (fun t => (t.gskip, t.ref)) = some (true, 10000#64) ∧
    (nextOf (exec (.edge 10150#64) { huntingAt 10000#64 0 with gskip := true })).map (fun t => (t.gskip, t.ref)) =
      some (false, 10000#64) := by decide

/-- R121 example. -/
theorem test_first_short :
    (nextOf (exec (.edge 1000#64) (huntingAt 0#64 0))).map (fun t => (t.slotStart, t.i1, t.ref, t.half)) =
      some (0#64, 1000#64, 1000#64, true) := by decide

/-- R122 example. -/
theorem test_preamble_one :
    (nextOf (exec (.edge 2000#64) (huntingHalf 0#64 1000#64 0))).map (fun t => (t.pr, t.outputs, t.ref, t.half)) =
      some ([0#64, 2000#64], [.marker ⟨.preambleBit, 0#64⟩], 2000#64, false) := by decide

/-- R123 example; 25 Ones lock, 26 do not (R125). -/
theorem test_lock :
    (nextOf (exec (.edge 24000#64) (huntingAt 22000#64 11))).map (fun t => (t.sync, t.pktIdx, t.bb, t.ref)) =
      some (.locked, 0#64, [⟨22000#64, 24000#64, .zero⟩], 24000#64) ∧
    (nextOf (exec (.edge 24000#64) (huntingAt 22000#64 25))).map State.sync = some .locked ∧
    (nextOf (exec (.edge 24000#64) (huntingAt 22000#64 26))).map State.sync = some .hunting := by decide

/-- R128 example. -/
theorem test_length_error :
    (nextOf (exec (.edge 18000#64) (huntingAt 16000#64 8))).map (fun t => (t.outputs, t.pr, t.sync, t.ref)) =
      some ([.marker ⟨.errLength, 16000#64⟩], [], .hunting, 18000#64) := by decide

/-- R124 example; at the shared point 1500 with the sum too long the second row is taken. -/
theorem test_second_pulse_lock :
    (nextOf (exec (.edge 25000#64) (huntingHalf 22000#64 1000#64 11))).map (fun t => (t.outputs, t.bb, t.ref)) =
      some ([.marker ⟨.errSkipped, 22000#64⟩], [⟨23000#64, 25000#64, .zero⟩], 25000#64) ∧
    (nextOf (exec (.edge 24900#64) (huntingHalf 22000#64 1400#64 11))).map (fun t => (t.sync, t.half, t.bb)) =
      some (.locked, false, [⟨23400#64, 24900#64, .zero⟩]) := by decide

/-- R129 example. -/
theorem test_second_pulse_length_error :
    (nextOf (exec (.edge 9000#64) (huntingHalf 6000#64 1000#64 3))).map (fun t => (t.outputs, t.pr, t.half, t.ref)) =
      some ([.marker ⟨.errSkipped, 6000#64⟩, .marker ⟨.errLength, 7000#64⟩], [], false, 9000#64) := by decide

/-- R127 example. -/
theorem test_hunting_violation :
    (nextOf (exec (.edge 2800#64) (huntingHalf 0#64 1400#64 5))).map (fun t => (t.outputs, t.pr, t.half, t.ref)) =
      some ([.marker ⟨.errTiming, 0#64⟩], [], false, 2800#64) := by decide

/-- R141 example. -/
theorem test_locked_short :
    (nextOf (exec (.edge 25000#64) (lockedAt 24000#64 1))).map (fun t => (t.slotStart, t.i1, t.half, t.bb.length)) =
      some (24000#64, 1000#64, true, 1) := by decide

/-- R142 example. -/
theorem test_zero :
    (nextOf (exec (.edge 26000#64) (lockedAt 24000#64 1))).map (fun t => (t.bb, t.ref, t.outputs)) =
      some ([⟨22000#64, 24000#64, .zero⟩, ⟨24000#64, 26000#64, .zero⟩], 26000#64, []) := by decide

/-- R143: the halves need not be equal (600 + 1400). -/
theorem test_one :
    (nextOf (exec (.edge 26000#64) (lockedHalf 24000#64 600#64 1))).map (fun t => (t.bb, t.half)) =
      some ([⟨22000#64, 24000#64, .zero⟩, ⟨24000#64, 26000#64, .one⟩], false) := by decide

/-- R145 example, and the second row: Short and Short with the sum 2800. `pkt_idx` keeps its value. -/
theorem test_locked_violation :
    (nextOf (exec (.edge 27000#64) (lockedHalf 24000#64 1000#64 4))).map
        (fun t => (t.outputs, t.sync, t.bb, t.pr, t.pktIdx)) =
      some ([.marker ⟨.errTiming, 24000#64⟩], .hunting, [], [], 3#64) ∧
    (nextOf (exec (.edge 26800#64) (lockedHalf 24000#64 1400#64 4))).map (fun t => (t.sync, t.ref)) =
      some (.hunting, 26800#64) := by decide

/-- R157: the 11th bit. All data bits Zero expect parity One (R160), so the Zero in its place is flagged; the
stop bit is the One that arrives. -/
theorem test_frame :
    (nextOf (exec (.edge 46000#64) (lockedHalf 44000#64 1000#64 10))).map (fun t => (t.outputs, t.pktIdx, t.bb)) =
      some ([.marker ⟨.start, 24000#64⟩, .marker ⟨.errParity, 42000#64⟩, .marker ⟨.stopOk, 44000#64⟩,
        .frame ⟨24000#64, 45999#64, 3#64, 0x00#8, false, true⟩], 4#64, []) := by decide

/-- R151, R157: the sub-operations on 10 and on 11 entries. -/
theorem test_assembler :
    nextOf (exec .faSave (lockedAt 46000#64 10)) = some (lockedAt 46000#64 10) ∧
    (nextOf (exec .faAssemble (lockedAt 46000#64 11))).map (fun t => (t.outputs.getLast?, t.pktIdx, t.bb)) =
      some (some (.frame ⟨24000#64, 45999#64, 3#64, 0x00#8, false, false⟩), 4#64, []) := by decide

/-- R171 example. -/
theorem test_halted_edge : nextOf (exec (.edge 123456#64) haltedState) = some haltedState := by decide

/-- R173 and R175 examples. -/
theorem test_end_of_run :
    (nextOf (exec .eos (lockedAt 24000#64 7))).map (fun t => (t.bb, t.run, t.outputs)) = some ([], .halted, []) ∧
    (nextOf (exec .cancel (huntingHalf 0#64 1000#64 0))).map (fun t => (t.run, t.half)) = some (.halted, true) := by
  decide

/-- R177 example, and the constants at `fs = 46000` (R110), in the middle of a frame. -/
theorem test_reset :
    (nextOf (exec (.rst 4000000#64 0#64) (lockedAt 24000#64 7))).map
        (fun t => [t.tLong, t.tShort, t.errLong, t.errShort, t.ref]) =
      some [2000#64, 1000#64, 500#64, 500#64, 0#64] ∧
    (nextOf (exec (.rst 46000#64 7#64) haltedState)).map
        (fun t => (t.tLong, t.tShort, t.errLong, t.ref, t.run, t.sync)) =
      some (23#64, 11#64, 5#64, 7#64, .running, .hunting) := by decide

/-- U1 and U2. -/
theorem test_refusals :
    refusalOf (exec (.edge 9999#64) (huntingAt 10000#64 0)) = some .edgeBelowRef ∧
    refusalOf (exec (.rst 39999#64 0#64) State.reset) = some .unsupportedSampleRate := by decide

/-- The step from reset runs the word that `withFetchWord` presents; the sum at the shared point is staged. -/
theorem test_fetch_word :
    (nextOf (step (State.reset.withFetchWord 72 1000))).map (fun t => (t.half, t.ref)) = some (true, 1000#64) ∧
    (nextOf (step (State.reset.withFetchWord 8 0x1d))).map State.sync = some .locked ∧
    (nextOf (step (State.reset.withFetchWord 8 0x3a))).map (fun t => t.bb.length) = some 1 := by decide

/-- Every `DV` word that can occur (R82: `ls` only with `half`, `S` and `L` together with a staged interval) is
the vector of the edge that its staging presents. -/
theorem test_staged_vectors :
    ∀ op ∈ [DvOp.eHalt, .eGskip, .eGlitch, .hShort1, .hLock, .hLenerr, .hOne, .hLock2, .hLock2Shared, .hLenerr2,
        .hLenerr2Shared, .hTerr, .lShort1, .lZero, .lOne, .lTerrLong, .lTerrSum],
      decodeDv (dispatchVector (stagedPos (Dv.ofWord op.word)) (stageDv (Dv.ofWord op.word) State.reset)) = op := by
  decide

/-- R89, R85: the ports of the step that completes a frame. Bit 3 of a code tells an error marker. -/
theorem test_ports :
    (nextOf (exec (.edge 46000#64) (lockedHalf 44000#64 1000#64 10))).map (fun t =>
        let o := outPorts (lockedHalf 44000#64 1000#64 10) t
        (o.frame.map Frame.unpack, o.markers.map (·.toNat / 2 ^ 64), o.locked, o.halted, o.pktIdx)) =
      some (some ⟨24000#64, 45999#64, 3#64, 0x00#8, false, true⟩, [1, 11, 3], true, false, 4#64) ∧
    [MarkerKind.stopOk, .errTiming].map MarkerKind.isError = [false, true] := by decide

/-- R91: `ONE ZERO` from 0 at `fs = 4000000`. -/
theorem test_trace :
    (expandAll [.one, .zero] (traceEnv State.reset)).1 = [edgeAt 1000, edgeAt 2000, edgeAt 4000] ∧
    wireBits 0xaa#8 .zero (oddParity 0xaa#8) .one =
      [.zero, .zero, .one, .zero, .one, .zero, .one, .zero, .one, .one, .one] := by decide

/-! ### Witnesses: the hypotheses of each statement, met by concrete states and operands -/

theorem constants_reset : ConstantsOk State.reset := by constructor <;> decide

/-- The states of these tests have the constants of `State.reset`. -/
theorem constants_of {s : State} (h : s.fs = State.reset.fs ∧ s.tLong = State.reset.tLong ∧
    s.tShort = State.reset.tShort ∧ s.errLong = State.reset.errLong ∧ s.errShort = State.reset.errShort) :
    ConstantsOk s := by
  obtain ⟨a, b, c, d, e⟩ := h
  have k := constants_reset
  constructor
  · rw [a]; exact k.supported
  · rw [b, a]; exact k.tLong
  · rw [c, a]; exact k.tShort
  · rw [d, a]; exact k.errLong
  · rw [e, a]; exact k.errShort

theorem inv_reset : Inv State.reset := ⟨by decide, by decide, by decide, by decide, by decide, by decide, constants_reset⟩

/-- Locked in the middle of a slot, ten bits buffered: all invariants. -/
theorem inv_locked : Inv (lockedHalf 44000#64 1000#64 10) ∧ Tiling (lockedHalf 44000#64 1000#64 10) :=
  ⟨⟨by decide, by decide, by decide, by decide, by decide, by decide, constants_of (by decide)⟩,
    ⟨by decide, by decide⟩⟩

theorem inv_hunting : Inv (huntingHalf 22000#64 1000#64 11) ∧ Inv (huntingAt 22000#64 11) :=
  ⟨⟨by decide, by decide, by decide, by decide, by decide, by decide, constants_of (by decide)⟩,
    ⟨by decide, by decide, by decide, by decide, by decide, by decide, constants_of (by decide)⟩⟩

/-- A preamble bit recorded and a slot half received. -/
theorem tiling_hunting :
    let s := { huntingHalf 2000#64 1000#64 1 with pr := [0#64, 2000#64] }
    Inv s ∧ Tiling s :=
  ⟨⟨by decide, by decide, by decide, by decide, by decide, by decide, constants_of (by decide)⟩,
    ⟨by decide, by decide⟩⟩

/-- The presentation of an `EDGE`. -/
def edgePort (n : Nat) : Ports := Ports.ofEvent (evWord 0#2 (BitVec.ofNat 64 n))

theorem witness_EventWordLayout :
    (0x0ffffffffffffffff#66).toNat / 2 ^ 64 = 0 ∧ (0x10000000000000000#66).toNat / 2 ^ 64 = 1 ∧
    (0x2ffffffffffffffff#66).toNat / 2 ^ 64 = 2 ∧ (0x30000000000000000#66).toNat / 2 ^ 64 = 3 := by decide

theorem witness_DispatchVectorBits :
    (11500#64).toNat = (huntingHalf 9000#64 1000#64 11).ref.toNat + 1500 := by decide

theorem witness_EdgePerformsMatchingRow :
    (dvTable.filter fun r => r.accepts (dispatchVector 24900#64 (huntingHalf 22000#64 1400#64 11))) =
      [⟨.hLock2Shared, 0xff#8, 0x1d#8⟩] := by decide

theorem witness_MarkerRecordLayout :
    (0x40000000000000000#68).toNat / 2 ^ 64 = 4 ∧ (0x7ffffffffffffffff#68).toNat / 2 ^ 64 = 7 ∧
    (0xd0000000000000000#68).toNat / 2 ^ 64 = 13 ∧ (0xfffffffffffffffff#68).toNat / 2 ^ 64 = 15 := by decide

/-- The least supported rate, where the windows share a point. -/
theorem witness_WindowProperties :
    ConstantsOk (State.afterReset 40000#64 0#64) ∧
    isShort (State.afterReset 40000#64 0#64) 15 = true ∧ isLong (State.afterReset 40000#64 0#64) 15 = true :=
  ⟨by constructor <;> decide, by decide, by decide⟩

theorem witness_BoundaryClasses :
    (ConstantsOk State.reset ∧ State.reset.fs = 4000000#64) ∧
    (ConstantsOk (State.afterReset 46000#64 0#64) ∧ (State.afterReset 46000#64 0#64).fs = 46000#64) :=
  ⟨⟨constants_reset, rfl⟩, ⟨by constructor <;> decide, rfl⟩⟩

theorem witness_ResetResult : 40000 ≤ (40000#64).toNat ∧ 40000 ≤ (0xffffffffffffffff#64).toNat := by decide

theorem witness_ResetBelowMinimumRefused : (39999#64).toNat < 40000 ∧ (0#64).toNat < 40000 := by decide

theorem witness_EndOfRun : (lockedAt 24000#64 7).run = .running ∧ haltedState.run = .halted := by decide

theorem witness_HaltedEdgeIgnored : haltedState.run = .halted := rfl

theorem witness_HaltedUntilReset :
    let ps := [edgePort 5, Ports.ofEvent (evWord 1#2 0#64), Ports.ofEvent (evWord 2#2 0#64),
      { edgePort 0 with evValid := false }]
    let s := { haltedState with inputs := ps ++ [Ports.ofReset 40000#64 0#64] }
    s.run = .halted ∧ s.inputs = ps ++ [Ports.ofReset 40000#64 0#64] ∧
    (∀ p ∈ ps, p.rst = false ∧ (p.evValid = true → p.ev.toNat / 2 ^ 64 ≠ 3)) := by decide

theorem witness_EdgeBelowReferenceRefused :
    (9999#64).toNat < (huntingAt 10000#64 0).ref.toNat ∧ Measuring (huntingAt 10000#64 0) :=
  ⟨by decide, ⟨rfl, rfl⟩⟩

theorem witness_StepRunsDecodedInstruction :
    let e := edgePort 1000
    let r := Ports.ofReset 40000#64 0#64
    State.reset.inputs = [] ∧
    ({ State.reset with inputs := [e] } : State).inputs = e :: [] ∧ e.rst = false ∧ e.evValid = true ∧
    decode (.ev e.ev) = .instr (.edge 1000#64) ∧ r.rst = true ∧
    decode (.ev (Ports.ofEvent 0x30000000000000000#66).ev) = .reservedEventOp := by decide

theorem witness_ResetOverridesEvent : (Ports.ofReset 40000#64 0#64).rst = true ∧ (edgePort 0).rst = false := by decide

theorem witness_HaltingEventsFirst :
    let s := { lockedAt 24000#64 7 with inputs := (serialise true true (some 25000#64)).map Ports.ofEvent ++ [] }
    (true || true) = true ∧ (false || true) = true ∧ (true || false) = true ∧ s.run = .running ∧
    s.inputs = (serialise true true (some 25000#64)).map Ports.ofEvent ++ [] := by decide

/-- Both sides of both windows. -/
theorem witness_GlitchResult :
    Measuring (lockedHalf 24000#64 1000#64 4) ∧
    ∀ d ∈ [0, 499, 2501], (BitVec.ofNat 64 (25000 + d)).toNat = (lockedHalf 24000#64 1000#64 4).ref.toNat + d ∧
      isShort (lockedHalf 24000#64 1000#64 4) d = false ∧ isLong (lockedHalf 24000#64 1000#64 4) d = false :=
  ⟨⟨rfl, rfl⟩, by decide⟩

theorem witness_SkipResult :
    ({ huntingAt 10000#64 0 with gskip := true } : State).run = .running ∧
    ({ huntingAt 10000#64 0 with gskip := true } : State).gskip = true := by decide

theorem witness_GlitchTransparency :
    Measuring (huntingAt 10000#64 3) ∧
    ∀ b ∈ [(10100#64, 10150#64), (10499#64, 10600#64)],
      ∃ d, b.1.toNat = (huntingAt 10000#64 3).ref.toNat + d ∧ classify (huntingAt 10000#64 3) d = .glitch := by
  refine ⟨⟨rfl, rfl⟩, ?_⟩
  simp only [List.mem_cons, List.not_mem_nil, or_false]
  rintro b (rfl | rfl)
  · exact ⟨100, by decide, by decide⟩
  · exact ⟨499, by decide, by decide⟩

theorem witness_OverlongIntervalStuck :
    (lockedAt 24000#64 4).run = .running ∧ ConstantsOk (lockedAt 24000#64 4) ∧
    ∀ p ∈ [26501#64, 26600#64, 30000#64],
      (lockedAt 24000#64 4).ref.toNat + (lockedAt 24000#64 4).tLong.toNat + (lockedAt 24000#64 4).errLong.toNat <
        p.toNat :=
  ⟨rfl, constants_of (by decide), by simp [lockedAt, huntingAt]; decide⟩

/-- Both ends of the Short window, hunting and locked. -/
theorem witness_FirstShortResult :
    Measuring (huntingAt 10000#64 3) ∧ Measuring (lockedAt 10000#64 3) ∧
    ∀ s ∈ [huntingAt 10000#64 3, lockedAt 10000#64 3], s.half = false ∧
      ∀ d ∈ [500, 1500], (BitVec.ofNat 64 (10000 + d)).toNat = s.ref.toNat + d ∧ isShort s d = true :=
  ⟨⟨rfl, rfl⟩, ⟨rfl, rfl⟩, by decide⟩

/-- The shortest and the longest sum that is Long. -/
theorem witness_PreambleOneResult :
    Measuring (huntingHalf 0#64 1000#64 3) ∧
    ∀ d ∈ [500, 1500], (BitVec.ofNat 64 (1000 + d)).toNat = (huntingHalf 0#64 1000#64 3).ref.toNat + d ∧
      (huntingHalf 0#64 1000#64 3).sync = .hunting ∧ (huntingHalf 0#64 1000#64 3).half = true ∧
      isShort (huntingHalf 0#64 1000#64 3) d = true ∧
      isLong (huntingHalf 0#64 1000#64 3) ((huntingHalf 0#64 1000#64 3).i1.toNat + d) = true :=
  ⟨⟨rfl, rfl⟩, by decide⟩

/-- Both ends of the length range and of the direct Long. -/
theorem witness_LockResult :
    (∀ n, Measuring (huntingAt 22000#64 n)) ∧
    ∀ n ∈ [11, 25], ∀ d ∈ [1501, 2500],
      (BitVec.ofNat 64 (22000 + d)).toNat = (huntingAt 22000#64 n).ref.toNat + d ∧
      (huntingAt 22000#64 n).bb = [] ∧ (huntingAt 22000#64 n).sync = .hunting ∧
      (huntingAt 22000#64 n).half = false ∧ isShort (huntingAt 22000#64 n) d = false ∧
      isLong (huntingAt 22000#64 n) d = true ∧
      11 ≤ (huntingAt 22000#64 n).pr.length / 2 ∧ (huntingAt 22000#64 n).pr.length / 2 ≤ 25 :=
  ⟨fun _ => ⟨rfl, rfl⟩, by decide⟩

theorem witness_LengthErrorResult :
    (∀ n, Measuring (huntingAt 22000#64 n)) ∧
    ∀ n ∈ [0, 10, 26],
      (24000#64).toNat = (huntingAt 22000#64 n).ref.toNat + 2000 ∧ (huntingAt 22000#64 n).sync = .hunting ∧
      (huntingAt 22000#64 n).half = false ∧ isShort (huntingAt 22000#64 n) 2000 = false ∧
      isLong (huntingAt 22000#64 n) 2000 = true ∧
      ¬(11 ≤ (huntingAt 22000#64 n).pr.length / 2 ∧ (huntingAt 22000#64 n).pr.length / 2 ≤ 25) :=
  ⟨fun _ => ⟨rfl, rfl⟩, by decide⟩

/-- A second interval that is Long only, and one at the shared point with the sum too long. -/
theorem witness_SecondPulseLockResult :
    (∀ n, Measuring (huntingHalf 22000#64 1400#64 n)) ∧
    ∀ n ∈ [11, 25], ∀ d ∈ [1500, 2000],
      (BitVec.ofNat 64 (23400 + d)).toNat = (huntingHalf 22000#64 1400#64 n).ref.toNat + d ∧
      (huntingHalf 22000#64 1400#64 n).bb = [] ∧ (huntingHalf 22000#64 1400#64 n).sync = .hunting ∧
      (huntingHalf 22000#64 1400#64 n).half = true ∧ isLong (huntingHalf 22000#64 1400#64 n) d = true ∧
      ¬(isShort (huntingHalf 22000#64 1400#64 n) d = true ∧
          isLong (huntingHalf 22000#64 1400#64 n) ((huntingHalf 22000#64 1400#64 n).i1.toNat + d) = true) ∧
      11 ≤ (huntingHalf 22000#64 1400#64 n).pr.length / 2 ∧ (huntingHalf 22000#64 1400#64 n).pr.length / 2 ≤ 25 :=
  ⟨fun _ => ⟨rfl, rfl⟩, by decide⟩

theorem witness_SecondPulseLengthErrorResult :
    (∀ n, Measuring (huntingHalf 22000#64 1400#64 n)) ∧
    ∀ n ∈ [0, 10, 26], ∀ d ∈ [1500, 2000],
      (BitVec.ofNat 64 (23400 + d)).toNat = (huntingHalf 22000#64 1400#64 n).ref.toNat + d ∧
      (huntingHalf 22000#64 1400#64 n).sync = .hunting ∧ (huntingHalf 22000#64 1400#64 n).half = true ∧
      isLong (huntingHalf 22000#64 1400#64 n) d = true ∧
      ¬(isShort (huntingHalf 22000#64 1400#64 n) d = true ∧
          isLong (huntingHalf 22000#64 1400#64 n) ((huntingHalf 22000#64 1400#64 n).i1.toNat + d) = true) ∧
      ¬(11 ≤ (huntingHalf 22000#64 1400#64 n).pr.length / 2 ∧
          (huntingHalf 22000#64 1400#64 n).pr.length / 2 ≤ 25) :=
  ⟨fun _ => ⟨rfl, rfl⟩, by decide⟩

/-- Hunting with the sum too small and too large; locked with a Long, and with the sum too large at the shared
point. -/
theorem witness_TimingViolationResult :
    (∀ i, Measuring (huntingHalf 0#64 i 3)) ∧ Measuring (lockedHalf 24000#64 1400#64 4) ∧
    (∀ q ∈ [(500#64, 500), (1400#64, 1400)],
      (BitVec.ofNat 64 (q.1.toNat + q.2)).toNat = (huntingHalf 0#64 q.1 3).ref.toNat + q.2 ∧
      (huntingHalf 0#64 q.1 3).half = true ∧ (huntingHalf 0#64 q.1 3).sync = .hunting ∧
      isShort (huntingHalf 0#64 q.1 3) q.2 = true ∧ isLong (huntingHalf 0#64 q.1 3) q.2 = false ∧
      isLong (huntingHalf 0#64 q.1 3) ((huntingHalf 0#64 q.1 3).i1.toNat + q.2) = false) ∧
    (lockedHalf 24000#64 1400#64 4).half = true ∧ (lockedHalf 24000#64 1400#64 4).sync = .locked ∧
    isShort (lockedHalf 24000#64 1400#64 4) 1501 = false ∧ isLong (lockedHalf 24000#64 1400#64 4) 1501 = true ∧
    isShort (lockedHalf 24000#64 1400#64 4) 1500 = true ∧
    isLong (lockedHalf 24000#64 1400#64 4) ((lockedHalf 24000#64 1400#64 4).i1.toNat + 1500) = false ∧
    (26901#64).toNat = (lockedHalf 24000#64 1400#64 4).ref.toNat + 1501 ∧
    (26900#64).toNat = (lockedHalf 24000#64 1400#64 4).ref.toNat + 1500 :=
  ⟨fun _ => ⟨rfl, rfl⟩, ⟨rfl, rfl⟩, by decide⟩

/-- The first and the tenth bit of a frame, Zero and One. -/
theorem witness_BitSavedResult :
    (∀ n, Measuring (lockedAt 24000#64 n) ∧ Measuring (lockedHalf 24000#64 1000#64 n)) ∧
    ∀ n ∈ [0, 9],
      ((26000#64).toNat = (lockedAt 24000#64 n).ref.toNat + 2000 ∧ (lockedAt 24000#64 n).bb.length ≠ 10 ∧
        (lockedAt 24000#64 n).sync = .locked ∧ (lockedAt 24000#64 n).half = false ∧
        isShort (lockedAt 24000#64 n) 2000 = false ∧ isLong (lockedAt 24000#64 n) 2000 = true) ∧
      ((26000#64).toNat = (lockedHalf 24000#64 1000#64 n).ref.toNat + 1000 ∧
        (lockedHalf 24000#64 1000#64 n).bb.length ≠ 10 ∧ (lockedHalf 24000#64 1000#64 n).sync = .locked ∧
        (lockedHalf 24000#64 1000#64 n).half = true ∧ isShort (lockedHalf 24000#64 1000#64 n) 1000 = true ∧
        isLong (lockedHalf 24000#64 1000#64 n) ((lockedHalf 24000#64 1000#64 n).i1.toNat + 1000) = true) :=
  ⟨fun _ => ⟨⟨rfl, rfl⟩, ⟨rfl, rfl⟩⟩, by decide⟩

theorem witness_FrameCompletedResult :
    let start : BitInfo := ⟨24000#64, 26000#64, .zero⟩
    let parity : BitInfo := ⟨42000#64, 44000#64, .zero⟩
    let data := (zerosTo 44000#64 10).tail.dropLast
    data.length = 8 ∧
    (Measuring (lockedAt 44000#64 10) ∧ Measuring (lockedHalf 44000#64 1000#64 10)) ∧
    ((46000#64).toNat = (lockedAt 44000#64 10).ref.toNat + 2000 ∧
      (lockedAt 44000#64 10).bb = start :: data ++ [parity] ∧ (lockedAt 44000#64 10).sync = .locked ∧
      (lockedAt 44000#64 10).half = false ∧ isShort (lockedAt 44000#64 10) 2000 = false ∧
      isLong (lockedAt 44000#64 10) 2000 = true) ∧
    ((46000#64).toNat = (lockedHalf 44000#64 1000#64 10).ref.toNat + 1000 ∧
      (lockedHalf 44000#64 1000#64 10).bb = start :: data ++ [parity] ∧
      (lockedHalf 44000#64 1000#64 10).sync = .locked ∧ (lockedHalf 44000#64 1000#64 10).half = true ∧
      isShort (lockedHalf 44000#64 1000#64 10) 1000 = true ∧
      isLong (lockedHalf 44000#64 1000#64 10) ((lockedHalf 44000#64 1000#64 10).i1.toNat + 1000) = true) :=
  ⟨by decide, ⟨⟨rfl, rfl⟩, ⟨rfl, rfl⟩⟩, by decide, by decide⟩

theorem witness_AssemblerOperations :
    let start : BitInfo := ⟨24000#64, 26000#64, .zero⟩
    let parity : BitInfo := ⟨42000#64, 44000#64, .zero⟩
    let stop : BitInfo := ⟨44000#64, 46000#64, .zero⟩
    let data := (zerosTo 44000#64 10).tail.dropLast
    data.length = 8 ∧ (lockedAt 46000#64 11).bb = start :: data ++ [parity, stop] := by decide

theorem witness_AssembleElsewhereFaults :
    (lockedAt 46000#64 10).bb.length ≠ 11 ∧ (lockedAt 46000#64 12).bb.length ≠ 11 := by decide

theorem witness_PayloadBits : (zerosTo 44000#64 8).length = 8 ∧ 7 < (zerosTo 44000#64 8).length := by decide

theorem witness_ParityRule : (zerosTo 44000#64 8).length = 8 := by decide

/-- A frame completed with a wrong parity bit, a slot that raises a TimingViolation (both leave the buffer empty)
and an assembly. -/
theorem witness_MismatchChangesNoState :
    let s := lockedHalf 44000#64 1000#64 10
    let p : BitInfo := ⟨42000#64, 44000#64, .zero⟩
    let x : BitInfo := ⟨44000#64, 46000#64, .one⟩
    s.sync = .locked ∧ (zerosTo 42000#64 9).length = 9 ∧
    (nextOf (exec (.edge 46000#64) { s with bb := zerosTo 42000#64 9 ++ [p] })).map (fun t => (t.bb, t.sync)) =
      some ([], .locked) ∧
    (nextOf (exec (.edge 47000#64) { s with bb := zerosTo 42000#64 9 ++ [p] })).map (fun t => (t.bb, t.sync)) =
      some ([], .hunting) ∧
    (nextOf (exec .faAssemble { s with bb := zerosTo 42000#64 9 ++ [p, x] })).isSome = true := by decide

/-- A step that answers a next state, no reset asked for: an edge while locked. -/
def lockedStepping : State := { lockedHalf 44000#64 1000#64 10 with inputs := [edgePort 46000] }

theorem inv_lockedStepping : Inv lockedStepping ∧ Tiling lockedStepping ∧ noReset lockedStepping :=
  ⟨⟨by decide, by decide, by decide, by decide, by decide, by decide, constants_of (by decide)⟩,
    ⟨by decide, by decide⟩, fun p h => by cases h; rfl⟩

theorem witness_ConstantsFixed : (nextOf (step lockedStepping)).isSome = true ∧ noReset lockedStepping :=
  ⟨by decide, inv_lockedStepping.2.2⟩

theorem witness_ReferenceMoves :
    (nextOf (step lockedStepping)).map State.ref = some 46000#64 ∧ lockedStepping.ref = 45000#64 ∧
    noReset lockedStepping :=
  ⟨by decide, by decide, inv_lockedStepping.2.2⟩

theorem witness_PacketIndexWriters :
    Inv lockedStepping ∧ (nextOf (step lockedStepping)).map State.pktIdx = some 4#64 ∧ noReset lockedStepping :=
  ⟨inv_lockedStepping.1, by decide, inv_lockedStepping.2.2⟩

theorem witness_LockOnlyAfterPreamble :
    let s := { huntingHalf 22000#64 1000#64 11 with inputs := [edgePort 25000] }
    Inv s ∧ s.sync = .hunting ∧ (nextOf (step s)).map State.sync = some .locked :=
  ⟨⟨by decide, by decide, by decide, by decide, by decide, by decide, constants_of (by decide)⟩, by decide,
    by decide⟩

theorem witness_LockedLeftOnlyByViolation :
    let s := { lockedHalf 24000#64 1000#64 4 with inputs := [edgePort 27000] }
    noReset s ∧ s.sync = .locked ∧ (nextOf (step s)).map State.sync = some .hunting :=
  ⟨fun p h => by cases h; rfl, by decide, by decide⟩

theorem witness_FrameOnlyFromElevenBits :
    Inv lockedStepping ∧ Tiling lockedStepping ∧
    (nextOf (step lockedStepping)).map (fun t => (newOutputs lockedStepping t).getLast?) =
      some (some (.frame ⟨24000#64, 45999#64, 3#64, 0x00#8, false, true⟩)) :=
  ⟨inv_lockedStepping.1, inv_lockedStepping.2.1, by decide⟩

theorem witness_OutputsPerStep : Inv lockedStepping ∧ (nextOf (step lockedStepping)).isSome = true :=
  ⟨inv_lockedStepping.1, by decide⟩

theorem witness_OutputsNotRead :
    (nextOf (step lockedStepping)).isSome = true ∧
    refusalOf (step { huntingAt 10000#64 0 with inputs := [edgePort 9999] }) = some .edgeBelowRef := by decide

theorem witness_StaleSlotNotRead :
    let s := { huntingAt 10000#64 0 with inputs := [edgePort 11000] }
    s.half = false ∧ (nextOf (step s)).map State.half = some true := by decide

/-- The counts 26 and 30 are the same to the saturating counter. -/
theorem witness_SaturatingPreambleCount :
    let s := { huntingHalf 0#64 1000#64 30 with inputs := [edgePort 2000] }
    min (s.pr.length / 2) 26 = min ((List.replicate 52 (0#64 : Word)).length / 2) 26 ∧
    (nextOf (step s)).map (fun t => t.pr.length) = some 62 := by decide

theorem witness_InvariantsKept : Inv lockedStepping ∧ (nextOf (step lockedStepping)).isSome = true :=
  ⟨inv_lockedStepping.1, by decide⟩

theorem witness_TilingKept :
    Inv lockedStepping ∧ Tiling lockedStepping ∧ (nextOf (step lockedStepping)).isSome = true :=
  ⟨inv_lockedStepping.1, inv_lockedStepping.2.1, by decide⟩

/-- Two edges at one position, a reset to a lower position and an edge at that very position. -/
theorem witness_LegalRunCompletes :
    let s := { State.reset with
      inputs := [edgePort 1000, edgePort 1000, Ports.ofReset 40000#64 7#64, edgePort 7,
        Ports.ofEvent (evWord 1#2 0#64), edgePort 8] }
    Inv s ∧ LegalInputs s :=
  ⟨⟨by decide, by decide, by decide, by decide, by decide, by decide, constants_of (by decide)⟩,
    by unfold LegalInputs; decide⟩

/-- No One, 11, 25 and 26 Ones before the Zero. -/
theorem witness_NominalPreamble :
    ConstantsOk State.reset ∧ BetweenSlots State.reset ∧
    ∀ n ∈ [0, 11, 25, 26], State.reset.sync = .hunting ∧ State.reset.pr = [] ∧ State.reset.bb = [] ∧
      State.reset.ref.toNat + (n + 1) * State.reset.tLong.toNat < 2 ^ 64 ∧
      ({ State.reset with inputs := (expandAll [.pre n, .zero] (traceEnv State.reset)).1 } : State).inputs =
        (expandAll [.pre n, .zero] (traceEnv State.reset)).1 ++ [] :=
  ⟨constants_reset, ⟨rfl, rfl, rfl⟩, by decide⟩

/-- A later frame of a packet: nothing buffered, eleven bits to come. -/
theorem witness_NominalFrame_later :
    let sent := wireBits 0xaa#8 .zero .one .one
    let s := { lockedAt 24000#64 0 with inputs := (traceBits sent (traceEnv (lockedAt 24000#64 0))).1 }
    ConstantsOk s ∧ BetweenSlots s ∧ s.sync = .locked ∧ s.bb.length ≤ 10 ∧
    s.bb.map BitInfo.value ++ sent = wireBits 0xaa#8 .zero .one .one ∧
    s.ref.toNat + sent.length * s.tLong.toNat < 2 ^ 64 ∧ s.inputs = (traceBits sent (traceEnv s)).1 ++ [] :=
  ⟨constants_of (by decide), ⟨rfl, rfl, rfl⟩, by decide⟩

/-- The first frame of a packet: the locking Zero is buffered, ten bits to come. -/
theorem witness_NominalFrame_first :
    let sent := (wireBits 0xaa#8 .zero .one .one).tail
    let s := { lockedAt 26000#64 1 with inputs := (traceBits sent (traceEnv (lockedAt 26000#64 1))).1 }
    ConstantsOk s ∧ BetweenSlots s ∧ s.sync = .locked ∧ s.bb = [⟨24000#64, s.ref, .zero⟩] ∧ s.bb.length ≤ 10 ∧
    s.bb.map BitInfo.value ++ sent = wireBits 0xaa#8 .zero .one .one ∧
    s.ref.toNat + sent.length * s.tLong.toNat < 2 ^ 64 ∧ s.inputs = (traceBits sent (traceEnv s)).1 ++ [] :=
  ⟨constants_of (by decide), ⟨rfl, rfl, rfl⟩, by decide⟩

/-- After reset, the shortest and the longest preamble that lock, one byte and two. -/
theorem witness_NominalPacket :
    ConstantsOk State.reset ∧ BetweenSlots State.reset ∧
    ∀ n ∈ [11, 25], ∀ vs ∈ [[], [0x55#8]], State.reset.sync = .hunting ∧ State.reset.pr = [] ∧
      State.reset.bb = [] ∧ 11 ≤ n ∧ n ≤ 25 ∧
      State.reset.ref.toNat + (n + 11 * (0xaa#8 :: vs).length) * State.reset.tLong.toNat < 2 ^ 64 ∧
      ({ State.reset with
          inputs := (expandAll (.pre n :: (0xaa#8 :: vs).map .byte) (traceEnv State.reset)).1 } : State).inputs =
        (expandAll (.pre n :: (0xaa#8 :: vs).map .byte) (traceEnv State.reset)).1 ++ [] :=
  ⟨constants_reset, ⟨rfl, rfl, rfl⟩, by decide⟩

end Sys2Proof.Tests
end

section
/-! PROOFS. Scope: what a step performs, what it keeps, and that a run under the environment's promise never
stops. -/

namespace Sys2Proof.Machine

/-! ### What a step performs, by what the ports ask for -/

theorem step_of_nil {s : State} (h : s.inputs = []) : step s = .next s := by
  simp [step, h]

theorem step_of_idle {s : State} {p : Ports} {rest : List Ports} (h : s.inputs = p :: rest)
    (hf : fetch p = .idle) : step s = .next (s.setInputs rest) := by
  simp [step, h, hf]

theorem step_of_instr {s : State} {p : Ports} {rest : List Ports} {i : Instr} (h : s.inputs = p :: rest)
    (hf : fetch p = .instr i) : step s = exec i (s.setInputs rest) := by
  simp [step, h, hf]

theorem step_of_reserved {s : State} {p : Ports} {rest : List Ports} (h : s.inputs = p :: rest)
    (hf : fetch p = .reservedEventOp) : step s = .refused .reservedEventOp := by
  simp [step, h, hf]

/-- Reset comes first, whatever event stands beside it (R178). -/
theorem fetch_of_rst {p : Ports} (h : p.rst = true) : fetch p = .instr (.rst p.cfgFs p.cfgStart) := by
  simp [fetch, Ports.word?, h, decode]

theorem fetch_of_event {p : Ports} {i : Instr} (hr : p.rst = false) (hv : p.evValid = true)
    (hd : decode (.ev p.ev) = .instr i) : fetch p = .instr i := by
  simp [fetch, Ports.word?, hr, hv, hd]

theorem fetch_of_reserved {p : Ports} (hr : p.rst = false) (hv : p.evValid = true)
    (hd : decode (.ev p.ev) = .reservedEventOp) : fetch p = .reservedEventOp := by
  simp [fetch, Ports.word?, hr, hv, hd]

theorem fetch_of_nothing {p : Ports} (hr : p.rst = false) (hv : p.evValid = false) : fetch p = .idle := by
  simp [fetch, Ports.word?, hr, hv]

/-- Settles O19, by what the oldest presentation asks for. -/
theorem stepRunsDecodedInstruction : Obligations.StepRunsDecodedInstruction := fun _ =>
  ⟨step_of_nil, fun _ _ hi =>
    ⟨fun hr => step_of_instr hi (fetch_of_rst hr),
     fun hr hv _ hd => step_of_instr hi (fetch_of_event hr hv hd),
     fun hr hv hd => step_of_reserved hi (fetch_of_reserved hr hv hd),
     fun hr hv => step_of_idle hi (fetch_of_nothing hr hv)⟩⟩

/-! ### What an edge and a step leave unchanged -/

/-- `FS` and the four derived constants agree (R30, R31). -/
structure SameConstants (s t : State) : Prop where
  fs : t.fs = s.fs
  tLong : t.tLong = s.tLong
  tShort : t.tShort = s.tShort
  errLong : t.errLong = s.errLong
  errShort : t.errShort = s.errShort

theorem SameConstants.trans {s t u : State} (h : SameConstants s t) (k : SameConstants t u) :
    SameConstants s u :=
  ⟨k.fs.trans h.fs, k.tLong.trans h.tLong, k.tShort.trans h.tShort, k.errLong.trans h.errLong,
    k.errShort.trans h.errShort⟩

theorem ConstantsOk.of_same {s t : State} (h : ConstantsOk s) (k : SameConstants s t) : ConstantsOk t := by
  obtain ⟨hf, hl, hs, hel, hes⟩ := k
  constructor
  · rw [hf]; exact h.supported
  · rw [hl, hf]; exact h.tLong
  · rw [hs, hf]; exact h.tShort
  · rw [hel, hf]; exact h.errLong
  · rw [hes, hf]; exact h.errShort

/-- What every row of the dispatch table keeps: the constants and the presentations to come; `ref` stays or moves
to the edge (R9, R25). -/
structure EdgeFrame (pos : Word) (s t : State) : Prop where
  constants : SameConstants s t
  inputs : t.inputs = s.inputs
  ref : t.ref = s.ref ∨ t.ref = pos

theorem setInputs_sameConstants (s : State) (l : List Ports) : SameConstants s (s.setInputs l) :=
  ⟨rfl, rfl, rfl, rfl, rfl⟩

theorem saveBit_sameConstants (b : BitInfo) (s : State) : SameConstants s (saveBit b s) := by
  rw [saveBit_frame]
  constructor <;> rfl

@[simp] theorem saveBit_inputs (b : BitInfo) (s : State) : (saveBit b s).inputs = s.inputs := by
  rw [saveBit_frame]

@[simp] theorem saveBit_ref (b : BitInfo) (s : State) : (saveBit b s).ref = s.ref := by
  rw [saveBit_frame]

theorem EdgeFrame.saveBit {pos : Word} {s u : State} (h : EdgeFrame pos s u) (b : BitInfo) :
    EdgeFrame pos s (saveBit b u) :=
  ⟨h.constants.trans (saveBit_sameConstants b u), (saveBit_inputs b u).trans h.inputs,
    by rw [saveBit_ref]; exact h.ref⟩

theorem EdgeFrame.lock {pos : Word} {s u : State} (h : EdgeFrame pos s u) (b : BitInfo) :
    EdgeFrame pos s (lock b u) := by
  have locked : EdgeFrame pos s { u with sync := .locked, pktIdx := 0#64 } :=
    ⟨h.constants.trans ⟨rfl, rfl, rfl, rfl, rfl⟩, h.inputs, h.ref⟩
  exact locked.saveBit b

/-- What the rows that invalidate leave: the edge is the new reference and the hunt starts again (R200, R201). -/
def rehunt (pos : Word) (o : List Output) (s : State) : State :=
  { s with outputs := o, ref := pos, half := false, sync := .hunting, pr := [], bb := [] }

theorem rejectDirect_rehunt (pos : Word) (s : State) :
    raise .directLength s.ref (s.setRef pos) = rehunt pos (s.outputs ++ [.marker ⟨.errLength, s.ref⟩]) s := by
  simp only [raise_eq, invalidate_eq, emitMarker_eq, State.setRef, rehunt]

theorem rejectOnSecond_rehunt (pos : Word) (s : State) :
    rejectOnSecond pos s =
      rehunt pos (s.outputs ++ [.marker ⟨.errSkipped, s.slotStart⟩] ++ [.marker ⟨.errLength, s.ref⟩]) s := by
  rw [rejectOnSecond_eq, rehunt]

theorem failSlot_rehunt {c : Cause} (h : c.violation = .timing) (pos : Word) (s : State) :
    failSlot c pos s = rehunt pos (s.outputs ++ [.marker ⟨.errTiming, s.slotStart⟩]) s := by
  rw [failSlot_timing h, rehunt]

/-- Every row that answers a next state keeps the frame. -/
theorem EdgeCase.frame {pos : Word} {s t : State} (h : EdgeCase pos s t) : EdgeFrame pos s t := by
  have setRef : EdgeFrame pos s (s.setRef pos) := ⟨⟨rfl, rfl, rfl, rfl, rfl⟩, rfl, .inr rfl⟩
  have closeSlot : EdgeFrame pos s ((s.setRef pos).setHalf false) := ⟨⟨rfl, rfl, rfl, rfl, rfl⟩, rfl, .inr rfl⟩
  have skipShort : EdgeFrame pos s (skipShort pos s) := ⟨⟨rfl, rfl, rfl, rfl, rfl⟩, rfl, .inr rfl⟩
  have rehunt (o : List Output) : EdgeFrame pos s (rehunt pos o s) := ⟨⟨rfl, rfl, rfl, rfl, rfl⟩, rfl, .inr rfl⟩
  cases h with
  | halted | gskip | glitch => exact ⟨⟨rfl, rfl, rfl, rfl, rfl⟩, rfl, .inl rfl⟩
  | short1 => rw [startSlot_eq]; exact ⟨⟨rfl, rfl, rfl, rfl, rfl⟩, rfl, .inr rfl⟩
  | hOne => rw [emitMarker_eq, appendPair_eq]; exact ⟨⟨rfl, rfl, rfl, rfl, rfl⟩, rfl, .inr rfl⟩
  | hLenerr => rw [rejectDirect_rehunt]; exact rehunt _
  | hLenerr2 => rw [rejectOnSecond_rehunt]; exact rehunt _
  | hTerr => rw [failSlot_rehunt rfl]; exact rehunt _
  | lTerr _ _ _ c cause => rw [failSlot_rehunt (by rcases cause with rfl | rfl <;> rfl)]; exact rehunt _
  | hLock => exact setRef.lock _
  | hLock2 => exact skipShort.lock _
  | lZero => exact setRef.saveBit _
  | lOne => exact closeSlot.saveBit _

/-- The end of a run changes neither the constants nor the presentations to come nor `ref` (R173). -/
theorem endRun_frame {c : Cause} (hc : c = .sourceExhausted ∨ c = .cancelled) (s : State) :
    SameConstants s (endRun c s) ∧ (endRun c s).inputs = s.inputs ∧ (endRun c s).ref = s.ref := by
  rw [endRun_eq s c hc]
  split <;> exact ⟨⟨rfl, rfl, rfl, rfl, rfl⟩, rfl, rfl⟩

/-- A step that takes no reset keeps the constants (R9, R66). -/
theorem step_sameConstants {s t : State} (h : step s = .next t) (hn : noReset s) : SameConstants s t := by
  cases step_inv h with
  | none => exact ⟨rfl, rfl, rfl, rfl, rfl⟩
  | idle p rest => exact setInputs_sameConstants s rest
  | reset p rest inputs rst =>
    have noRst : p.rst = false := hn p (by rw [inputs]; rfl)
    exact nomatch rst.symm.trans noRst
  | halt p rest inputs rst c cause =>
    exact (setInputs_sameConstants s rest).trans (endRun_frame cause (s.setInputs rest)).1
  | edge p rest t inputs rst asks row => exact (setInputs_sameConstants s rest).trans row.frame.constants

/-- Settles O42: only a reset writes `FS` and the constants. -/
theorem constantsFixed : Obligations.ConstantsFixed := fun _ _ h hn =>
  have k := step_sameConstants h hn
  ⟨k.fs, k.tLong, k.tShort, k.errLong, k.errShort⟩

/-! ### The invariants, kept by each way of changing the state -/

theorem Inv.setInputs {s : State} (h : Inv s) (l : List Ports) : Inv (s.setInputs l) :=
  { h with constants := h.constants.of_same (setInputs_sameConstants s l) }

theorem Inv.setGskip {s : State} (h : Inv s) (b : Bool) : Inv (s.setGskip b) :=
  { h with constants := h.constants.of_same ⟨rfl, rfl, rfl, rfl, rfl⟩ }

theorem Inv.emit {s : State} (h : Inv s) (o : Output) : Inv (s.emit o) :=
  { h with constants := h.constants.of_same ⟨rfl, rfl, rfl, rfl, rfl⟩ }

/-- Between slots `ref` may move anywhere: item 4 of R39 is about a half received slot. -/
theorem Inv.setRef {s : State} (h : Inv s) (half : s.half = false) (pos : Word) : Inv (s.setRef pos) :=
  { h with
    halfShort := fun hh => nomatch hh.symm.trans half
    constants := h.constants.of_same ⟨rfl, rfl, rfl, rfl, rfl⟩ }

theorem Inv.clearHalf {s : State} (h : Inv s) : Inv (s.setHalf false) :=
  { h with
    halfShort := fun hh => nomatch hh
    constants := h.constants.of_same ⟨rfl, rfl, rfl, rfl, rfl⟩ }

/-- The slot ends at `pos`: the second interval of a slot is taken. -/
theorem Inv.closeSlot {s : State} (h : Inv s) (pos : Word) : Inv ((s.setRef pos).setHalf false) :=
  h.clearHalf.setRef rfl pos

/-- A Short interval opens a slot (R39 item 4). -/
theorem Inv.startSlot {s : State} {pos : Word} (h : Inv s) (order : s.ref.toNat ≤ pos.toNat)
    (short : isShort s (dist pos s) = true) : Inv (startSlot pos (interval pos s.ref) s) :=
  { h with
    halfShort := fun _ => ⟨short, by
      have := interval_toNat order
      simp only [startSlot_eq]
      omega⟩
    constants := h.constants.of_same ⟨rfl, rfl, rfl, rfl, rfl⟩ }

/-- While hunting a preamble bit is recorded as a pair (R39 item 3). -/
theorem Inv.appendPair {s : State} (h : Inv s) (sync : s.sync = .hunting) (a b : Word) : Inv (appendPair a b s) :=
  { h with
    preambleEven := by
      have := h.preambleEven
      simp only [appendPair_eq, List.length_append, List.length_cons, List.length_nil]
      omega
    lockedLength := fun hl => nomatch hl.symm.trans sync
    constants := h.constants.of_same ⟨rfl, rfl, rfl, rfl, rfl⟩ }

/-- Starting the hunt again makes every invariant hold but the one about the constants (R207). -/
theorem ConstantsOk.inv_rehunt {s : State} (h : ConstantsOk s) (pos : Word) (o : List Output) :
    Inv (rehunt pos o s) where
  huntingEmpty _ := rfl
  bufferBound := Nat.zero_le _
  preambleEven := rfl
  halfShort hh := nomatch hh
  lockedLength hl := nomatch hl
  haltedEmpty _ := rfl
  constants := h.of_same ⟨rfl, rfl, rfl, rfl, rfl⟩

/-- While running and `Locked`, `save_bit` leaves at most ten entries in the buffer (R39 item 2). -/
theorem Inv.saveBit {s : State} (h : Inv s) (run : s.run = .running) (sync : s.sync = .locked) (b : BitInfo) :
    Inv (saveBit b s) := by
  have constants := h.constants.of_same (saveBit_sameConstants b s)
  rcases saveBit_cases b s with ⟨notTen, e⟩ | ⟨-, f, -, e⟩ <;> rw [e] at constants ⊢
  · exact { h with
      huntingEmpty := fun hh => nomatch hh.symm.trans sync
      bufferBound := by
        have := h.bufferBound
        simp only [List.length_append, List.length_cons, List.length_nil]
        omega
      haltedEmpty := fun hr => nomatch hr.symm.trans run
      constants := constants }
  · exact { h with
      huntingEmpty := fun _ => rfl
      bufferBound := Nat.zero_le _
      haltedEmpty := fun _ => rfl
      constants := constants }

/-- `lock` needs the preamble length in range (R39 item 5, R126). -/
theorem Inv.lock {s : State} (h : Inv s) (run : s.run = .running) (len : lengthOk s = true) (b : BitInfo) :
    Inv (lock b s) := by
  have locked : Inv { s with sync := .locked, pktIdx := 0#64 } :=
    { h with
      huntingEmpty := fun hh => nomatch hh
      lockedLength := fun _ => of_decide_eq_true len
      constants := h.constants.of_same ⟨rfl, rfl, rfl, rfl, rfl⟩ }
  exact locked.saveBit run rfl b

/-- The end of a run discards the buffered bits (R39 item 7). -/
theorem Inv.endRun {s : State} (h : Inv s) {c : Cause} (hc : c = .sourceExhausted ∨ c = .cancelled) :
    Inv (endRun c s) := by
  rw [endRun_eq s c hc]
  split
  · exact h
  · exact { h with
      huntingEmpty := fun _ => rfl
      bufferBound := Nat.zero_le _
      haltedEmpty := fun _ => rfl
      constants := h.constants.of_same ⟨rfl, rfl, rfl, rfl, rfl⟩ }

/-- The constants of R31 fit their registers. -/
theorem constantsOk_afterReset {fs : Word} (h : supportedRate fs = true) (start : Word) :
    ConstantsOk (State.afterReset fs start) := by
  have long : tLongOf fs.toNat < 2 ^ 64 := Nat.lt_of_le_of_lt (Nat.div_le_self _ _) fs.isLt
  have short : tShortOf fs.toNat < 2 ^ 64 := Nat.lt_of_le_of_lt (Nat.div_le_self _ _) long
  have tolerance {n : Nat} (hn : n < 2 ^ 64) (k : Nat) : max (n / k) Config.tolMin < 2 ^ 64 :=
    Nat.max_lt.mpr ⟨Nat.lt_of_le_of_lt (Nat.div_le_self _ _) hn, by decide⟩
  exact ⟨of_decide_eq_true h, Nat.mod_eq_of_lt long, Nat.mod_eq_of_lt short, Nat.mod_eq_of_lt (tolerance long 4),
    Nat.mod_eq_of_lt (tolerance short 2)⟩

/-- The invariants hold after a reset at a supported rate (R37). -/
theorem inv_afterReset {fs : Word} (h : supportedRate fs = true) (start : Word) :
    Inv (State.afterReset fs start) where
  huntingEmpty _ := rfl
  bufferBound := Nat.zero_le _
  preambleEven := rfl
  halfShort hh := nomatch hh
  lockedLength hl := nomatch hl
  haltedEmpty _ := rfl
  constants := constantsOk_afterReset h start

/-- Every row of the dispatch table keeps the invariants. -/
theorem EdgeCase.inv {pos : Word} {s t : State} (row : EdgeCase pos s t) (h : Inv s) : Inv t := by
  cases row with
  | halted => exact h
  | gskip | glitch => exact h.setGskip _
  | short1 m half short => exact h.startSlot m.order short
  | hLock m sync half short long len => exact (h.setRef half pos).lock m.run len _
  | hLenerr => rw [rejectDirect_rehunt]; exact h.constants.inv_rehunt pos _
  | hLenerr2 => rw [rejectOnSecond_rehunt]; exact h.constants.inv_rehunt pos _
  | hTerr => rw [failSlot_rehunt rfl]; exact h.constants.inv_rehunt pos _
  | hOne m sync => exact ((h.appendPair sync _ _).emit _).closeSlot pos
  | hLock2 m sync half long notOne len => exact ((h.emit _).closeSlot pos).lock m.run len _
  | lZero m sync half => exact (h.setRef half pos).saveBit m.run sync _
  | lOne m sync => exact (h.closeSlot pos).saveBit m.run sync _
  | lTerr m sync half c cause =>
    rw [failSlot_rehunt (by rcases cause with rfl | rfl <;> rfl)]
    exact h.constants.inv_rehunt pos _

/-- Every step keeps the invariants (R39). -/
theorem Inv.of_step {s t : State} (h : Inv s) (hs : step s = .next t) : Inv t := by
  cases step_inv hs with
  | none => exact h
  | idle p rest => exact h.setInputs rest
  | reset p rest inputs rst rate =>
    exact { inv_afterReset rate p.cfgStart with
      constants := (constantsOk_afterReset rate p.cfgStart).of_same ⟨rfl, rfl, rfl, rfl, rfl⟩ }
  | halt p rest inputs rst c cause => exact (h.setInputs rest).endRun cause
  | edge p rest t inputs rst asks row => exact row.inv (h.setInputs rest)

/-! ### The environment's promise, presentation by presentation -/

theorem legalFrom_idle {p : Ports} (hf : fetch p = .idle) (last : Nat) (rest : List Ports) :
    legalFrom last (p :: rest) = legalFrom last rest := by
  simp [legalFrom, hf]

theorem legalFrom_reserved {p : Ports} (hf : fetch p = .reservedEventOp) (last : Nat) (rest : List Ports) :
    legalFrom last (p :: rest) = false := by
  simp [legalFrom, hf]

theorem legalFrom_rst {p : Ports} {fs start : Word} (hf : fetch p = .instr (.rst fs start)) (last : Nat)
    (rest : List Ports) :
    legalFrom last (p :: rest) = true ↔ supportedRate fs = true ∧ legalFrom start.toNat rest = true := by
  simp [legalFrom, hf]

theorem legalFrom_edge {p : Ports} {pos : Word} (hf : fetch p = .instr (.edge pos)) (last : Nat)
    (rest : List Ports) :
    legalFrom last (p :: rest) = true ↔ last ≤ pos.toNat ∧ legalFrom pos.toNat rest = true := by
  simp [legalFrom, hf]

theorem legalFrom_halt {p : Ports} {i : Instr} (hf : fetch p = .instr i) (hc : i = .eos ∨ i = .cancel)
    (last : Nat) (rest : List Ports) : legalFrom last (p :: rest) = legalFrom last rest := by
  rcases hc with rfl | rfl <;> simp [legalFrom, hf]

/-- The promise as a run keeps it: `ref` is not above a position that no edge to come lies below. An absorbed
glitch leaves `ref` below the edge, so the two may differ (R103). -/
def PromiseKept (s : State) : Prop := ∃ last, s.ref.toNat ≤ last ∧ legalFrom last s.inputs = true

theorem LegalInputs.promiseKept {s : State} (h : LegalInputs s) : PromiseKept s :=
  ⟨s.ref.toNat, Nat.le_refl _, h⟩

/-! ### A run under the promise -/

/-- A row does not stop on an edge not below `ref` (U1). -/
theorem exec_row_next {pos : Word} {s : State} (h : s.ref.toNat ≤ pos.toNat) (op : DvOp) :
    ∃ t, exec (op.instr pos) s = .next t := by
  cases op with
  | eHalt | eGskip => exact ⟨_, rfl⟩
  | _ =>
    simp only [DvOp.instr, exec_eGlitch, exec_hShort1, exec_hLock, exec_hLenerr, exec_hOne, exec_hLock2,
      exec_hLock2Shared, exec_hLenerr2, exec_hLenerr2Shared, exec_hTerr, exec_lShort1, exec_lZero, exec_lOne,
      exec_lTerrLong, exec_lTerrSum, measured_of_le h]
    exact ⟨_, rfl⟩

theorem exec_edge_next {pos : Word} {s : State} (h : s.ref.toNat ≤ pos.toNat) :
    ∃ t, exec (.edge pos) s = .next t := by
  rw [exec_edge]
  exact exec_row_next h _

/-- The end of a run is never refused (R173, R175). -/
theorem exec_halt_next {i : Instr} (h : i = .eos ∨ i = .cancel) (s : State) :
    ∃ t, exec i s = .next t ∧ t.inputs = s.inputs ∧ t.ref = s.ref := by
  rcases h with rfl | rfl
  · exact ⟨_, exec_eos s, (endRun_frame (.inl rfl) s).2⟩
  · exact ⟨_, exec_cancel s, (endRun_frame (.inr rfl) s).2⟩

/-- Under the promise a step takes its presentation and leaves the promise kept. -/
theorem PromiseKept.step_next {s : State} {p : Ports} {rest : List Ports} (h : PromiseKept s)
    (hi : s.inputs = p :: rest) : ∃ t, step s = .next t ∧ t.inputs = rest ∧ PromiseKept t := by
  obtain ⟨last, hle, hl⟩ := h
  rw [hi] at hl
  have halts {i : Instr} (hf : fetch p = .instr i) (hc : i = .eos ∨ i = .cancel) :
      ∃ t, step s = .next t ∧ t.inputs = rest ∧ PromiseKept t := by
    obtain ⟨t, ht, inputs, ref⟩ := exec_halt_next hc (s.setInputs rest)
    rw [legalFrom_halt hf hc] at hl
    exact ⟨t, (step_of_instr hi hf).trans ht, inputs, last, by rw [ref]; exact hle, by rw [inputs]; exact hl⟩
  rcases fetch_cases p with ⟨hf, -⟩ | ⟨hf, -⟩ | ⟨-, -, ⟨hf, -⟩ | ⟨hf, -⟩ | ⟨hf, -⟩ | ⟨hf, -⟩⟩
  · rw [legalFrom_idle hf] at hl
    exact ⟨_, step_of_idle hi hf, rfl, last, hle, hl⟩
  · obtain ⟨rate, hl⟩ := (legalFrom_rst hf last rest).mp hl
    exact ⟨_, (step_of_instr hi hf).trans (by rw [exec_rst, if_pos rate]), rfl, _, Nat.le_refl _, hl⟩
  · obtain ⟨order, hl⟩ := (legalFrom_edge hf last rest).mp hl
    have above : (s.setInputs rest).ref.toNat ≤ (evPos p.ev).toNat := Nat.le_trans hle order
    obtain ⟨t, ht⟩ := exec_edge_next above
    obtain ⟨-, inputs, ref⟩ := (edge_cases ht).frame
    refine ⟨t, (step_of_instr hi hf).trans ht, inputs, _, ?_, by rw [inputs]; exact hl⟩
    rcases ref with e | e <;> rw [e]
    exact above
  · exact halts hf (.inl rfl)
  · exact halts hf (.inr rfl)
  · rw [legalFrom_reserved hf] at hl
    cases hl

/-- Under the promise a run takes every presentation, and the invariants hold after it. -/
theorem PromiseKept.run_completes {s : State} (h : PromiseKept s) (hv : Inv s) :
    ∃ t, runSteps s.inputs.length s = .next t ∧ t.inputs = [] ∧ Inv t := by
  induction hi : s.inputs generalizing s with
  | nil => exact ⟨s, rfl, hi, hv⟩
  | cons p rest ih =>
    obtain ⟨u, hs, inputs, kept⟩ := h.step_next hi
    obtain ⟨t, hr, ht⟩ := ih kept (hv.of_step hs) inputs
    exact ⟨t, by simpa only [List.length_cons, runSteps, hs] using hr, ht⟩

/-- Settles O54, by induction on the presentations to come. -/
theorem legalRunCompletes : Obligations.LegalRunCompletes := fun _ hv hl =>
  hl.promiseKept.run_completes hv

end Sys2Proof.Machine
end

section
/-! PROOFS. State: what reset gives, the windows of a supported rate, which steps write `ref` and `pkt_idx`, and what
no step reads. -/

namespace Sys2Proof.Machine

/-! ### The invariants and reset -/

/-- Settles O52: it is the step lemma a run is built from. -/
theorem invariantsKept : Obligations.InvariantsKept := fun _ _ h hs => h.of_step hs

/-- Nothing is recorded after reset, so nothing has to abut (R37). -/
theorem tiling_afterReset (fs start : Word) : Tiling (State.afterReset fs start) := ⟨rfl, fun _ => rfl⟩

/-- Settles O14: both clauses are about a state after reset at a supported rate. -/
theorem resetInvariants : Obligations.ResetInvariants := by
  have afterReset (fs start : Word) (rate : 40000 ≤ fs.toNat) :
      Inv (State.afterReset fs start) ∧ Tiling (State.afterReset fs start) :=
    ⟨inv_afterReset (decide_eq_true rate) start, tiling_afterReset fs start⟩
  exact ⟨afterReset, afterReset Config.resetFs Config.resetStart (by decide)⟩

/-- Settles O12: the constants fit their registers, every other register is written out in the reset. -/
theorem resetResult : Obligations.ResetResult := by
  intro s fs start rate
  have supported : supportedRate fs = true := decide_eq_true rate
  obtain ⟨-, long, short, errLong, errShort⟩ := constantsOk_afterReset supported start
  refine ⟨_, by rw [exec_rst, if_pos supported], ?_⟩
  exact ⟨rfl, long, short, errLong, errShort, rfl, rfl, rfl, rfl, rfl, rfl, rfl, rfl, rfl, rfl, rfl, rfl⟩

/-! ### The windows at a supported rate -/

theorem isShort_iff (s : State) (d : Nat) : isShort s d = true ↔
    s.tShort.toNat - s.errShort.toNat ≤ d ∧ d ≤ s.tShort.toNat + s.errShort.toNat := decide_eq_true_iff

theorem isLong_iff (s : State) (d : Nat) : isLong s d = true ↔
    s.tLong.toNat - s.errLong.toNat ≤ d ∧ d ≤ s.tLong.toNat + s.errLong.toNat := decide_eq_true_iff

/-- A Glitch is an interval in neither window (R75). -/
theorem classify_glitch_iff (s : State) (d : Nat) :
    classify s d = .glitch ↔ ¬(isShort s d = true ∨ isLong s d = true) := by
  unfold classify
  split
  · next short => simp [short]
  · next notShort =>
    split
    · next long => simp [long]
    · next notLong => simp [notShort, notLong]

theorem ConstantsOk.tLong_ge {s : State} (h : ConstantsOk s) : 20 ≤ s.tLong.toNat := by
  rw [h.tLong]
  exact Nat.div_le_div_right (c := Config.bitRate) h.supported

theorem ConstantsOk.tShort_eq {s : State} (h : ConstantsOk s) : s.tShort.toNat = s.tLong.toNat / 2 := by
  rw [h.tShort, h.tLong, tShortOf]

/-- At a supported rate `TOL_MIN` does not bind the Long tolerance (R32). -/
theorem ConstantsOk.errLong_eq {s : State} (h : ConstantsOk s) : s.errLong.toNat = s.tLong.toNat / 4 := by
  have bound : Config.tolMin ≤ s.tLong.toNat / 4 := by
    have := h.tLong_ge
    show 3 ≤ _
    omega
  rw [h.errLong, errLongOf, ← h.tLong, Nat.max_eq_left bound]

/-- At a supported rate `TOL_MIN` does not bind the Short tolerance (R32). -/
theorem ConstantsOk.errShort_eq {s : State} (h : ConstantsOk s) : s.errShort.toNat = s.tShort.toNat / 2 := by
  have bound : Config.tolMin ≤ s.tShort.toNat / 2 := by
    have := h.tLong_ge
    have := h.tShort_eq
    show 3 ≤ _
    omega
  rw [h.errShort, errShortOf, ← h.tShort, Nat.max_eq_left bound]

/-- Settles O10: with every constant a quotient of `T_LONG >= 20`, the rest is arithmetic. -/
theorem windowProperties : Obligations.WindowProperties := by
  intro s h
  have long := h.tLong_ge
  have short := h.tShort_eq
  have errLong := h.errLong_eq
  have errShort := h.errShort_eq
  have tolerances : s.errLong = s.errShort := BitVec.eq_of_toNat_eq (by omega)
  simp only [classify_glitch_iff, isShort_iff, isLong_iff]
  refine ⟨long, by omega, by omega, errLong, errShort, tolerances, by omega, by omega, by omega, by omega, by omega,
    fun d inShort inLong => by omega⟩

/-! ### A halted block -/

/-- The bits above the position are the `op` (R71). -/
theorem evOp_toNat (w : EvWord) : (evOp w).toNat = w.toNat / 2 ^ 64 := by
  have := w.isLt
  rw [evOp, BitVec.extractLsb'_toNat, Nat.shiftRight_eq_div_pow]
  omega

theorem endRun_of_halted {s : State} (run : s.run = .halted) (c : Cause) : endRun c s = s :=
  if_pos (decide_eq_true run)

/-- A halted block takes any presentation but a reset and changes nothing else (R21, R171, R173, R175, R180). -/
theorem step_of_halted {s : State} {p : Ports} {rest : List Ports} (run : s.run = .halted)
    (hi : s.inputs = p :: rest) (rst : p.rst = false) (op : p.evValid = true → p.ev.toNat / 2 ^ 64 ≠ 3) :
    step s = .next (s.setInputs rest) := by
  have ended (c : Cause) : endRun c (s.setInputs rest) = s.setInputs rest :=
    endRun_of_halted (s := s.setInputs rest) run c
  have ignored (pos : Word) : exec (.edge pos) (s.setInputs rest) = .next (s.setInputs rest) :=
    edge_of_demands (op := .eHalt) (decide_eq_true run)
  rcases fetch_cases p with ⟨hf, -⟩ | ⟨-, hr⟩ | ⟨-, valid, ⟨hf, -⟩ | ⟨hf, -⟩ | ⟨hf, -⟩ | ⟨-, reserved⟩⟩
  · exact step_of_idle hi hf
  · exact nomatch rst.symm.trans hr
  · rw [step_of_instr hi hf, ignored]
  · rw [step_of_instr hi hf, exec_eos, ended]
  · rw [step_of_instr hi hf, exec_cancel, ended]
  · exact absurd (by rw [← evOp_toNat, reserved]; rfl) (op valid)

/-- Settles O17, by induction on the presentations. -/
theorem haltedUntilReset : Obligations.HaltedUntilReset := by
  intro s ps rest run hi legal
  induction ps generalizing s with
  | nil =>
    rw [List.nil_append] at hi
    rw [← hi]
    rfl
  | cons p ps ih =>
    rw [List.cons_append] at hi
    obtain ⟨⟨rst, op⟩, legal⟩ := List.forall_mem_cons.mp legal
    have tail : runSteps ps.length (s.setInputs (ps ++ rest)) = .next { s with inputs := rest } :=
      ih (s.setInputs (ps ++ rest)) run rfl legal
    simpa only [List.length_cons, runSteps, step_of_halted run hi rst op] using tail

/-! ### Which steps write `ref` -/

@[simp] theorem saveBit_gskip (b : BitInfo) (s : State) : (saveBit b s).gskip = s.gskip := by
  rw [saveBit_frame]

@[simp] theorem lock_ref (b : BitInfo) (s : State) : (lock b s).ref = s.ref := saveBit_ref b _

@[simp] theorem lock_gskip (b : BitInfo) (s : State) : (lock b s).gskip = s.gskip := saveBit_gskip b _

/-- The edge is measured, its interval lies in a window, and it becomes the reference; `gskip` keeps its value
(R25, R102). -/
structure Qualifies (pos : Word) (s t : State) : Prop where
  measures : Measures pos s
  window : isShort s (dist pos s) = true ∨ isLong s (dist pos s) = true
  ref : t.ref = pos
  gskip : t.gskip = s.gskip

/-- A row leaves `ref` where it is, or its edge qualifies. -/
theorem EdgeCase.ref_kept_or_qualifies {pos : Word} {s t : State} (row : EdgeCase pos s t) :
    t.ref = s.ref ∨ Qualifies pos s t := by
  cases row with
  | halted | gskip | glitch => exact .inl rfl
  | short1 m half short => exact .inr ⟨m, .inl short, rfl, rfl⟩
  | hLock m sync half short long => exact .inr ⟨m, .inr long, lock_ref _ _, lock_gskip _ _⟩
  | hLenerr m sync half short long =>
    rw [rejectDirect_rehunt]
    exact .inr ⟨m, .inr long, rfl, rfl⟩
  | hOne m sync half short => exact .inr ⟨m, .inl short, rfl, rfl⟩
  | hLock2 m sync half long => exact .inr ⟨m, .inr long, lock_ref _ _, lock_gskip _ _⟩
  | hLenerr2 m sync half long =>
    rw [rejectOnSecond_rehunt]
    exact .inr ⟨m, .inr long, rfl, rfl⟩
  | hTerr m sync half short =>
    rw [failSlot_rehunt rfl]
    exact .inr ⟨m, .inl short, rfl, rfl⟩
  | lZero m sync half short long => exact .inr ⟨m, .inr long, saveBit_ref _ _, saveBit_gskip _ _⟩
  | lOne m sync half short => exact .inr ⟨m, .inl short, saveBit_ref _ _, saveBit_gskip _ _⟩
  | lTerr m sync half c cause window =>
    rw [failSlot_rehunt (by rcases cause with rfl | rfl <;> rfl)]
    exact .inr ⟨m, window, rfl, rfl⟩

/-- The interval of a qualifying edge is no Glitch (R75). -/
theorem Qualifies.not_glitch {pos : Word} {s t : State} (q : Qualifies pos s t) :
    classify s (pos.toNat - s.ref.toNat) ≠ .glitch := by
  rw [← interval_toNat q.measures.order]
  exact fun glitch => (classify_glitch_iff s _).mp glitch q.window

theorem rst_of_noReset {s : State} {p : Ports} {rest : List Ports} (hn : noReset s) (hi : s.inputs = p :: rest) :
    p.rst = false := hn p (by rw [hi]; rfl)

/-- Settles O43: only the rows of a qualifying edge write `ref`. -/
theorem referenceMoves : Obligations.ReferenceMoves := by
  intro s t h hn
  have kept {u : State} (e : u.ref = s.ref) {P : Prop} : s.ref.toNat ≤ u.ref.toNat ∧ (u.ref ≠ s.ref → P) :=
    ⟨by rw [e], fun moved => absurd e moved⟩
  cases step_inv h with
  | none | idle => exact kept rfl
  | reset p rest inputs rst => exact nomatch rst.symm.trans (rst_of_noReset hn inputs)
  | halt p rest inputs rst c cause => exact kept (endRun_frame cause (s.setInputs rest)).2.2
  | edge p rest t inputs rst asks row =>
    rcases row.ref_kept_or_qualifies with e | q
    · exact kept e
    · have measures := q.measures
      rw [q.ref]
      exact ⟨measures.order, fun _ => ⟨p, rest, inputs, asks, measures.run, measures.gskip,
        q.gskip.trans measures.gskip, q.not_glitch⟩⟩

/-! ### Which steps write `pkt_idx` -/

/-- The three things that can become of `pkt_idx`: it is kept, zeroed by a lock, or counts a frame (R29). -/
def PktIdxWrite (s t : State) : Prop :=
  t.pktIdx = s.pktIdx ∨
  (s.sync = .hunting ∧ t.sync = .locked ∧ t.pktIdx = 0#64) ∨
  (s.sync = .locked ∧ t.sync = .locked ∧ s.bb.length = 10 ∧ t.bb = [] ∧ t.pktIdx = s.pktIdx + 1#64)

/-- With nothing buffered, `lock` saves the start bit and completes no frame (R126). -/
theorem lock_of_empty {s : State} (h : s.bb = []) (b : BitInfo) :
    lock b s = { s with sync := .locked, pktIdx := 0#64, bb := [b] } := by
  rw [lock_eq, saveBit_save b (by simp [h])]
  simp [h]

theorem lock_pktIdxWrite {s u : State} (h : Inv s) (sync : s.sync = .hunting) (bb : u.bb = s.bb) (b : BitInfo) :
    PktIdxWrite s (lock b u) := by
  rw [lock_of_empty (bb.trans (h.huntingEmpty sync))]
  exact .inr (.inl ⟨sync, rfl, rfl⟩)

theorem saveBit_pktIdxWrite {s : State} (sync : s.sync = .locked) (b : BitInfo) : PktIdxWrite s (saveBit b s) := by
  rcases saveBit_cases b s with ⟨-, e⟩ | ⟨ten, f, -, e⟩ <;> rw [e]
  · exact .inl rfl
  · exact .inr (.inr ⟨sync, sync, ten, rfl, rfl⟩)

theorem EdgeCase.pktIdxWrite {pos : Word} {s t : State} (row : EdgeCase pos s t) (h : Inv s) : PktIdxWrite s t := by
  cases row with
  | halted | gskip | glitch | short1 | hOne => exact .inl rfl
  | hLenerr =>
    rw [rejectDirect_rehunt]
    exact .inl rfl
  | hLenerr2 =>
    rw [rejectOnSecond_rehunt]
    exact .inl rfl
  | hTerr =>
    rw [failSlot_rehunt rfl]
    exact .inl rfl
  | lTerr m sync half c cause =>
    rw [failSlot_rehunt (by rcases cause with rfl | rfl <;> rfl)]
    exact .inl rfl
  | hLock m sync => exact lock_pktIdxWrite (u := s.setRef pos) h sync rfl _
  | hLock2 m sync => exact lock_pktIdxWrite (u := skipShort pos s) h sync rfl _
  | lZero m sync => exact saveBit_pktIdxWrite (s := s.setRef pos) sync _
  | lOne m sync => exact saveBit_pktIdxWrite (s := (s.setRef pos).setHalf false) sync _

theorem endRun_pktIdx {c : Cause} (hc : c = .sourceExhausted ∨ c = .cancelled) (s : State) :
    (endRun c s).pktIdx = s.pktIdx := by
  rw [endRun_eq s c hc]
  split <;> rfl

/-- Settles O44: the writers are the two lock rows and the two rows that save a bit. -/
theorem packetIndexWriters : Obligations.PacketIndexWriters := by
  intro s t hv h hn
  cases step_inv h with
  | none | idle => exact .inl rfl
  | reset p rest inputs rst => exact nomatch rst.symm.trans (rst_of_noReset hn inputs)
  | halt p rest inputs rst c cause => exact .inl (endRun_pktIdx cause (s.setInputs rest))
  | edge p rest t inputs rst asks row => exact row.pktIdxWrite (hv.setInputs rest)

/-! ### What no step reads -/

/-- The outcome with its next state, if it answers one, changed by `f`. -/
def mapNext (f : State → State) : Host.Outcome State Fault Refusal → Host.Outcome State Fault Refusal
  | .next s => .next (f s)
  | .fault r => .fault r
  | .refused r => .refused r

/-- A measured operation commutes with a change of the state that keeps `ref` and commutes with its effect. -/
theorem measured_mapNext {f : State → State} {pos : Word} {s : State} {e e' : Word → State}
    (ref : (f s).ref = s.ref) (effect : ∀ d, e' d = f (e d)) :
    measured pos (f s) e' = mapNext f (measured pos s e) := by
  unfold measured
  rw [ref, effect]
  split <;> rfl

/-- The state with the records `o` emitted before those it has emitted. -/
def State.withEarlier (o : List Output) (s : State) : State := { s with outputs := o ++ s.outputs }

theorem withEarlier_setGskip (o : List Output) (b : Bool) (s : State) :
    (s.withEarlier o).setGskip b = (s.setGskip b).withEarlier o := rfl

theorem withEarlier_startSlot (o : List Output) (pos d : Word) (s : State) :
    startSlot pos d (s.withEarlier o) = (startSlot pos d s).withEarlier o := rfl

theorem withEarlier_emit (o : List Output) (s : State) (x : Output) :
    (s.withEarlier o).emit x = (s.emit x).withEarlier o := by
  simp only [State.withEarlier, State.emit, List.append_assoc]

theorem withEarlier_emitMarker (o : List Output) (k : MarkerKind) (p : Word) (s : State) :
    emitMarker k p (s.withEarlier o) = (emitMarker k p s).withEarlier o := withEarlier_emit o s _

theorem withEarlier_raise (o : List Output) (c : Cause) (p : Word) (s : State) :
    raise c p (s.withEarlier o) = (raise c p s).withEarlier o := by
  cases c <;> simp only [raise_eq, withEarlier_emitMarker] <;> rfl

theorem withEarlier_saveBit (o : List Output) (b : BitInfo) (s : State) :
    saveBit b (s.withEarlier o) = (saveBit b s).withEarlier o := by
  have parts : (appendBit b (s.withEarlier o)).bb = (appendBit b s).bb := rfl
  unfold saveBit
  rw [parts]
  cases frameParts? (appendBit b s).bb with
  | none => rfl
  | some f => simp only [assemble_eq, appendBit_eq, State.withEarlier, List.append_assoc]

theorem withEarlier_lock (o : List Output) (b : BitInfo) (s : State) :
    lock b (s.withEarlier o) = (lock b s).withEarlier o :=
  withEarlier_saveBit o b { s with sync := .locked, pktIdx := 0#64 }

theorem withEarlier_skipShort (o : List Output) (pos : Word) (s : State) :
    skipShort pos (s.withEarlier o) = (skipShort pos s).withEarlier o := by
  simp only [skipShort_eq, State.withEarlier, List.append_assoc]

theorem withEarlier_endRun (o : List Output) (c : Cause) (s : State) :
    endRun c (s.withEarlier o) = (endRun c s).withEarlier o := by
  have same : halted (s.withEarlier o) = halted s := rfl
  unfold endRun
  rw [same]
  split
  · rfl
  · exact withEarlier_raise o c s.ref s

/-- The effect of `H_ONE` (R122). -/
theorem withEarlier_recordOne (o : List Output) (pos : Word) (s : State) :
    ((emitMarker .preambleBit s.slotStart (appendPair s.slotStart pos (s.withEarlier o))).setRef pos).setHalf false =
      State.withEarlier o
        (((emitMarker .preambleBit s.slotStart (appendPair s.slotStart pos s)).setRef pos).setHalf false) :=
  congrArg (fun u => (u.setRef pos).setHalf false)
    (withEarlier_emitMarker o .preambleBit s.slotStart (appendPair s.slotStart pos s))

theorem withEarlier_lockOnSecond (o : List Output) (pos : Word) (s : State) :
    lockOnSecond pos (s.withEarlier o) = (lockOnSecond pos s).withEarlier o := by
  rw [lockOnSecond, withEarlier_skipShort]
  exact withEarlier_lock o _ (skipShort pos s)

theorem withEarlier_rejectOnSecond (o : List Output) (pos : Word) (s : State) :
    rejectOnSecond pos (s.withEarlier o) = (rejectOnSecond pos s).withEarlier o := by
  rw [rejectOnSecond, withEarlier_skipShort]
  exact withEarlier_raise o _ _ (skipShort pos s)

theorem withEarlier_failSlot (o : List Output) (c : Cause) (pos : Word) (s : State) :
    failSlot c pos (s.withEarlier o) = (failSlot c pos s).withEarlier o :=
  withEarlier_raise o c s.slotStart (s.setRef pos)

/-- Every row of the dispatch table does the same with other records before. -/
theorem withEarlier_row (o : List Output) (op : DvOp) (pos : Word) (s : State) :
    exec (op.instr pos) (s.withEarlier o) = mapNext (State.withEarlier o) (exec (op.instr pos) s) := by
  have measures {e e' : Word → State} (effect : ∀ d, e' d = (e d).withEarlier o) :
      measured pos (s.withEarlier o) e' = mapNext (State.withEarlier o) (measured pos s e) :=
    measured_mapNext rfl effect
  cases op with
  | eHalt | eGskip => rfl
  | eGlitch => exact measures fun _ => withEarlier_setGskip o true s
  | hShort1 | lShort1 => exact measures fun d => withEarlier_startSlot o pos d s
  | hLock => exact measures fun _ => withEarlier_lock o _ (s.setRef pos)
  | hLenerr => exact measures fun _ => withEarlier_raise o _ _ (s.setRef pos)
  | hOne => exact measures fun _ => withEarlier_recordOne o pos s
  | hLock2 | hLock2Shared => exact measures fun _ => withEarlier_lockOnSecond o pos s
  | hLenerr2 | hLenerr2Shared => exact measures fun _ => withEarlier_rejectOnSecond o pos s
  | hTerr | lTerrLong | lTerrSum => exact measures fun _ => withEarlier_failSlot o _ pos s
  | lZero => exact measures fun _ => withEarlier_saveBit o _ (s.setRef pos)
  | lOne => exact measures fun _ => withEarlier_saveBit o _ ((s.setRef pos).setHalf false)

/-- With other records before those emitted so far, a step does the same and stops where it stopped (R33, R38). -/
theorem withEarlier_step (o : List Output) (s : State) :
    step (s.withEarlier o) = mapNext (State.withEarlier o) (step s) := by
  cases hi : s.inputs with
  | nil => rw [step_of_nil hi, step_of_nil (s := s.withEarlier o) hi]; rfl
  | cons p rest =>
    have hi' : (s.withEarlier o).inputs = p :: rest := hi
    rcases fetch_cases p with ⟨hf, -⟩ | ⟨hf, -⟩ | ⟨-, -, ⟨hf, -⟩ | ⟨hf, -⟩ | ⟨hf, -⟩ | ⟨hf, -⟩⟩
    · rw [step_of_idle hi hf, step_of_idle hi' hf]; rfl
    · rw [step_of_instr hi hf, step_of_instr hi' hf, exec_rst, exec_rst]
      split <;> rfl
    · rw [step_of_instr hi hf, step_of_instr hi' hf, exec_edge, exec_edge]
      exact withEarlier_row o _ _ (s.setInputs rest)
    · rw [step_of_instr hi hf, step_of_instr hi' hf, exec_eos, exec_eos]
      exact congrArg _ (withEarlier_endRun o _ (s.setInputs rest))
    · rw [step_of_instr hi hf, step_of_instr hi' hf, exec_cancel, exec_cancel]
      exact congrArg _ (withEarlier_endRun o _ (s.setInputs rest))
    · rw [step_of_reserved hi hf, step_of_reserved hi' hf]; rfl

/-- Settles O49: a step commutes with putting records before those emitted. -/
theorem outputsNotRead : Obligations.OutputsNotRead := fun s o =>
  ⟨fun _ h => (withEarlier_step o s).trans (congrArg (mapNext _) h),
   fun _ h => (withEarlier_step o s).trans (congrArg (mapNext _) h)⟩

/-! ### The stale slot registers -/

/-- The two agree but for `slot_start` and `i1`, and in these too if a slot is half received (R26). -/
def SameButStaleSlot (t t' : State) : Prop :=
  t'.setSlot t.slotStart t.i1 = t ∧ (t.half = true → t' = t)

theorem SameButStaleSlot.refl (t : State) : SameButStaleSlot t t := ⟨rfl, fun _ => rfl⟩

theorem sameButStaleSlot_setSlot {t : State} (half : t.half = false) (a b : Word) :
    SameButStaleSlot t (t.setSlot a b) := ⟨rfl, fun hh => nomatch hh.symm.trans half⟩

theorem saveBit_setSlot (b : BitInfo) (s : State) (p d : Word) :
    saveBit b (s.setSlot p d) = (saveBit b s).setSlot p d := by
  have parts : (appendBit b (s.setSlot p d)).bb = (appendBit b s).bb := rfl
  unfold saveBit
  rw [parts]
  cases frameParts? (appendBit b s).bb with
  | none => rfl
  | some f => simp only [assemble_eq, appendBit_eq, State.setSlot]

@[simp] theorem saveBit_half (b : BitInfo) (s : State) : (saveBit b s).half = s.half := by
  rw [saveBit_frame]

@[simp] theorem lock_half (b : BitInfo) (s : State) : (lock b s).half = s.half := saveBit_half b _

theorem lock_setSlot (b : BitInfo) (s : State) (p d : Word) :
    lock b (s.setSlot p d) = (lock b s).setSlot p d :=
  saveBit_setSlot b { s with sync := .locked, pktIdx := 0#64 } p d

/-- With `half` 0 the bit `ls` is 0 whatever `i1` holds, so the same row is selected (R80). -/
theorem dispatchBits_setSlot {s : State} (half : s.half = false) (pos a b : Word) :
    dispatchBits pos (s.setSlot a b) = dispatchBits pos s := by
  have half' : (s.setSlot a b).half = false := half
  simp only [dispatchBits, half, half', Bool.false_and]
  rfl

/-- An edge between slots reads neither `slot_start` nor `i1`: the rows that do demand `half` 1 (R81). -/
theorem edge_setSlot {s t : State} {pos : Word} (half : s.half = false) (h : exec (.edge pos) s = .next t)
    (a b : Word) : ∃ t', exec (.edge pos) (s.setSlot a b) = .next t' ∧ SameButStaleSlot t t' := by
  have measures {e e' : Word → State} (he : measured pos s e = .next t)
      (effect : ∀ d, SameButStaleSlot (e d) (e' d)) :
      ∃ t', measured pos (s.setSlot a b) e' = .next t' ∧ SameButStaleSlot t t' := by
    obtain ⟨order, rfl⟩ := measured_next.mp he
    exact ⟨_, measured_of_le order e', effect _⟩
  have stale {u : State} (hu : u.half = false) : SameButStaleSlot u (u.setSlot a b) :=
    sameButStaleSlot_setSlot hu a b
  have demands := (selectRow_iff (dispatchBits pos s) _).mp rfl
  have notHalf : (dispatchBits pos s).hf = false := half
  rw [exec_edge] at h ⊢
  rw [dispatchBits_setSlot half]
  generalize selectRow (dispatchBits pos s) = op at h demands
  cases op with
  | eHalt => cases h; exact ⟨_, rfl, stale half⟩
  | eGskip => cases h; exact ⟨_, rfl, stale (u := s.setGskip false) half⟩
  | eGlitch =>
    rw [DvOp.instr, exec_eGlitch] at h ⊢
    exact measures h fun _ => stale (u := s.setGskip true) half
  | hShort1 =>
    rw [DvOp.instr, exec_hShort1] at h ⊢
    exact measures h fun _ => .refl _
  | lShort1 =>
    rw [DvOp.instr, exec_lShort1] at h ⊢
    exact measures h fun _ => .refl _
  | hLock =>
    rw [DvOp.instr, exec_hLock] at h ⊢
    refine measures h fun _ => ?_
    exact lock_setSlot _ (s.setRef pos) a b ▸ stale ((lock_half _ _).trans half)
  | hLenerr =>
    rw [DvOp.instr, exec_hLenerr] at h ⊢
    refine measures h fun _ => ?_
    rw [rejectDirect_rehunt, rejectDirect_rehunt]
    exact stale (u := rehunt pos _ s) rfl
  | lZero =>
    rw [DvOp.instr, exec_lZero] at h ⊢
    refine measures h fun _ => ?_
    exact saveBit_setSlot _ (s.setRef pos) a b ▸ stale ((saveBit_half _ _).trans half)
  | hOne | hLock2 | hLock2Shared | hLenerr2 | hLenerr2Shared | hTerr | lOne | lTerrLong | lTerrSum =>
    obtain ⟨-, -, -, halfSet, -⟩ := demands
    exact nomatch halfSet.symm.trans notHalf

theorem endRun_setSlot {s : State} {c : Cause} (hc : c = .sourceExhausted ∨ c = .cancelled) (half : s.half = false)
    (a b : Word) : SameButStaleSlot (endRun c s) (endRun c (s.setSlot a b)) := by
  have run : (s.setSlot a b).run = s.run := rfl
  rw [endRun_eq s c hc, endRun_eq _ c hc, run]
  split
  · exact sameButStaleSlot_setSlot half a b
  · exact sameButStaleSlot_setSlot (t := { s with bb := [], run := .halted }) half a b

/-- Settles O50, by what the oldest presentation asks for: a reset overwrites the two registers, an edge does not
read them, and nothing else looks at them. -/
theorem staleSlotNotRead : Obligations.StaleSlotNotRead := by
  intro s t a b half h
  show ∃ t', step (s.setSlot a b) = .next t' ∧ SameButStaleSlot t t'
  rcases step_cases h with ⟨hi, rfl⟩ | ⟨p, rest, hi, ⟨hf, rfl⟩ | ⟨i, hf, he⟩⟩
  · exact ⟨_, step_of_nil hi, sameButStaleSlot_setSlot half a b⟩
  · exact ⟨_, step_of_idle hi hf, sameButStaleSlot_setSlot (t := s.setInputs rest) half a b⟩
  · rw [step_of_instr (s := s.setSlot a b) hi hf]
    rcases fetch_cases p with ⟨h, -⟩ | ⟨h, -⟩ | ⟨-, -, ⟨h, -⟩ | ⟨h, -⟩ | ⟨h, -⟩ | ⟨h, -⟩⟩ <;> rw [hf] at h <;> cases h
    · exact ⟨t, he, .refl t⟩
    · exact edge_setSlot (s := s.setInputs rest) half he a b
    · cases he
      exact ⟨_, rfl, endRun_setSlot (s := s.setInputs rest) (.inl rfl) half a b⟩
    · cases he
      exact ⟨_, rfl, endRun_setSlot (s := s.setInputs rest) (.inr rfl) half a b⟩

end Sys2Proof.Machine
end

section
/-! PROOFS. Memory: how the stores `BB` and `PR` abut, what a step adds to the emitted records, and that `PR` is read
only through its saturated count. -/

namespace Sys2Proof.Machine

/-! ### Spans that abut, extended at the end -/

theorem runStart_append (l : List BitInfo) (b : BitInfo) (e : Word) :
    runStart (l ++ [b]) e = runStart l b.start := by
  cases l <;> rfl

/-- A bit that begins where the run of bits ends extends the run (R54). -/
theorem tiles_append {l : List BitInfo} {b : BitInfo} (run : tiles l b.start = true)
    (span : b.start.toNat < b.finish.toNat) : tiles (l ++ [b]) b.finish = true := by
  induction l with
  | nil => simp [tiles, runStart, span]
  | cons c rest ih =>
    simp only [List.cons_append, tiles, Bool.and_eq_true, runStart_append] at run ⊢
    exact ⟨run.1, ih run.2⟩

theorem pairStart_append (l : List Word) (a b e : Word) : pairStart (l ++ [a, b]) e = pairStart l a := by
  cases l <;> rfl

/-- A pair that begins where the run of pairs ends extends the run (R131). -/
theorem pairsTile_append {l : List Word} {a b : Word} (run : pairsTile l a = true) (span : a.toNat < b.toNat) :
    pairsTile (l ++ [a, b]) b = true := by
  induction l using List.twoStepInduction with
  | nil => simp [pairsTile, pairStart, span]
  | singleton c => cases run
  | cons_cons c d rest ih =>
    simp only [List.cons_append, pairsTile, Bool.and_eq_true, pairStart_append] at run ⊢
    exact ⟨run.1, ih run.2⟩

/-! ### The slot in progress -/

theorem slotOrigin_of_half {s : State} (half : s.half = true) : slotOrigin s = s.slotStart := by
  simp [slotOrigin, half]

theorem slotOrigin_between {s : State} (half : s.half = false) : slotOrigin s = s.ref := by
  simp [slotOrigin, half]

/-- Both windows begin above 0, so an interval that qualifies is not empty (R32). -/
theorem ConstantsOk.ref_lt_of_window {s : State} {pos : Word} (h : ConstantsOk s) (order : s.ref.toNat ≤ pos.toNat)
    (window : isShort s (dist pos s) = true ∨ isLong s (dist pos s) = true) : s.ref.toNat < pos.toNat := by
  have long := h.tLong_ge
  have short := h.tShort_eq
  have errLong := h.errLong_eq
  have errShort := h.errShort_eq
  have distance : dist pos s = pos.toNat - s.ref.toNat := interval_toNat order
  rw [isShort_iff, isLong_iff] at window
  omega

/-- A half received slot began at or before `ref` (R39 item 4). -/
theorem Inv.slotStart_le_ref {s : State} (h : Inv s) (half : s.half = true) : s.slotStart.toNat ≤ s.ref.toNat := by
  obtain ⟨-, ref⟩ := h.halfShort half
  omega

/-! ### The tiling, kept by each way of changing the stores -/

/-- `save_bit` of a span that begins where the buffered bits end and ends where the next slot begins (R54). -/
theorem tiling_saveBit {s : State} {b : BitInfo} (sync : s.sync = .locked) (run : tiles s.bb b.start = true)
    (span : b.start.toNat < b.finish.toNat) (origin : slotOrigin s = b.finish) : Tiling (saveBit b s) := by
  have notHunting {P : Prop} (hunting : s.sync = .hunting) : P := nomatch hunting.symm.trans sync
  rcases saveBit_cases b s with ⟨-, e⟩ | ⟨-, f, -, e⟩ <;> rw [e]
  · refine ⟨?_, notHunting⟩
    show tiles (s.bb ++ [b]) (slotOrigin s) = true
    rw [origin]
    exact tiles_append run span
  · exact ⟨rfl, notHunting⟩

/-- With nothing buffered the start bit of `lock` begins the run of bits (R126, R54). -/
theorem tiling_lock {s : State} {b : BitInfo} (empty : s.bb = []) (span : b.start.toNat < b.finish.toNat)
    (origin : slotOrigin s = b.finish) : Tiling (lock b s) := by
  have run : tiles s.bb b.start = true := by rw [empty]; rfl
  exact tiling_saveBit (s := { s with sync := .locked, pktIdx := 0#64 }) rfl run span origin

/-- Nothing is recorded where the hunt starts again (R207). -/
theorem tiling_rehunt (pos : Word) (o : List Output) (s : State) : Tiling (rehunt pos o s) := ⟨rfl, fun _ => rfl⟩

/-- Every row of the dispatch table keeps the tiling: what it saves or records is the slot that ends at the edge. -/
theorem EdgeCase.tiling {pos : Word} {s t : State} (row : EdgeCase pos s t) (h : Inv s) (tl : Tiling s) :
    Tiling t := by
  obtain ⟨buffer, preamble⟩ := tl
  cases row with
  | halted | gskip | glitch => exact ⟨buffer, preamble⟩
  | short1 m half =>
    rw [slotOrigin_between half] at buffer preamble
    exact ⟨buffer, preamble⟩
  | hLock m sync half short long =>
    exact tiling_lock (s := s.setRef pos) (h.huntingEmpty sync) (h.constants.ref_lt_of_window m.order (.inr long))
      (slotOrigin_between half)
  | hLock2 m sync half long =>
    exact tiling_lock (s := skipShort pos s) (h.huntingEmpty sync)
      (h.constants.ref_lt_of_window m.order (.inr long)) rfl
  | hOne m sync half short =>
    rw [slotOrigin_of_half half] at preamble
    have began := h.slotStart_le_ref half
    have moved := h.constants.ref_lt_of_window m.order (.inl short)
    refine ⟨?_, fun _ => pairsTile_append (preamble sync) (by omega)⟩
    show tiles s.bb pos = true
    rw [h.huntingEmpty sync]
    rfl
  | lZero m sync half short long =>
    rw [slotOrigin_between half] at buffer
    exact tiling_saveBit (s := s.setRef pos) sync buffer (h.constants.ref_lt_of_window m.order (.inr long))
      (slotOrigin_between half)
  | lOne m sync half short =>
    rw [slotOrigin_of_half half] at buffer
    have span : s.slotStart.toNat < pos.toNat :=
      Nat.lt_of_le_of_lt (h.slotStart_le_ref half) (h.constants.ref_lt_of_window m.order (.inl short))
    exact tiling_saveBit (s := (s.setRef pos).setHalf false) sync buffer span rfl
  | hLenerr => rw [rejectDirect_rehunt]; exact tiling_rehunt pos _ s
  | hLenerr2 => rw [rejectOnSecond_rehunt]; exact tiling_rehunt pos _ s
  | hTerr => rw [failSlot_rehunt rfl]; exact tiling_rehunt pos _ s
  | lTerr m sync half c cause =>
    rw [failSlot_rehunt (by rcases cause with rfl | rfl <;> rfl)]
    exact tiling_rehunt pos _ s

/-- The end of a run discards the buffered bits and leaves the preamble run and the slot (R173). -/
theorem Tiling.endRun {s : State} (h : Tiling s) {c : Cause} (hc : c = .sourceExhausted ∨ c = .cancelled) :
    Tiling (endRun c s) := by
  rw [endRun_eq s c hc]
  split
  · exact h
  · exact ⟨rfl, h.preamble⟩

theorem Tiling.setInputs {s : State} (h : Tiling s) (l : List Ports) : Tiling (s.setInputs l) :=
  ⟨h.buffer, h.preamble⟩

/-- Settles O53, by what the step performs. -/
theorem tilingKept : Obligations.TilingKept := by
  intro s t hv h hs
  cases step_inv hs with
  | none => exact h
  | idle p rest => exact h.setInputs rest
  | reset => exact ⟨rfl, fun _ => rfl⟩
  | halt p rest inputs rst c cause => exact (h.setInputs rest).endRun cause
  | edge p rest t inputs rst asks row => exact row.tiling (hv.setInputs rest) (h.setInputs rest)

/-! ### What a step adds to the emitted records -/

/-- From `s` to `t` only records were added: at most three Markers, and no Frame or one after three records (R68,
R230). -/
def AddsRecords (s t : State) : Prop :=
  ∃ added, t.outputs = s.outputs ++ added ∧
    (added.filterMap Output.marker?).length ≤ 3 ∧
    ((added.filterMap Output.frame?) = [] ∨
      ∃ ms f, added = ms ++ [.frame f] ∧ ms.filterMap Output.frame? = [] ∧ ms.length = 3)

theorem addsRecords_markers {s t : State} (ms : List Marker) (outputs : t.outputs = s.outputs ++ ms.map .marker)
    (few : ms.length ≤ 3) : AddsRecords s t := by
  have markers : (ms.map Output.marker).filterMap Output.marker? = ms := by
    simp [List.filterMap_map, Function.comp_def, Output.marker?]
  have frames : (ms.map Output.marker).filterMap Output.frame? = [] := by
    simp [Output.frame?]
  exact ⟨_, outputs, by rw [markers]; exact few, .inl frames⟩

theorem addsRecords_none {s t : State} (outputs : t.outputs = s.outputs) : AddsRecords s t :=
  addsRecords_markers [] (outputs.trans (List.append_nil _).symm) (by decide)

theorem addsRecords_marker {s t : State} {m : Marker} (outputs : t.outputs = s.outputs ++ [.marker m]) :
    AddsRecords s t := addsRecords_markers [m] outputs (by simp)

/-- A completed frame: three Markers, then the Frame (R157). -/
theorem addsRecords_frame {s t : State} {f : FrameParts} {idx : Word}
    (outputs : t.outputs = s.outputs ++ frameOutputs f idx) : AddsRecords s t :=
  ⟨_, outputs, Nat.le_refl 3, .inr ⟨
    [.marker ⟨.start, f.start.start⟩, .marker ⟨parityKind f, f.parity.start⟩, .marker ⟨stopKind f, f.stop.start⟩],
    frameRecord f idx, rfl, rfl, rfl⟩⟩

theorem addsRecords_saveBit {s u : State} (outputs : u.outputs = s.outputs) (b : BitInfo) :
    AddsRecords s (saveBit b u) := by
  rcases saveBit_cases b u with ⟨-, e⟩ | ⟨-, f, -, e⟩ <;> rw [e]
  · exact addsRecords_none outputs
  · exact addsRecords_frame (f := f) (idx := u.pktIdx) (congrArg (· ++ _) outputs)

/-- With nothing buffered `lock` completes no frame. -/
theorem lock_outputs {s : State} (empty : s.bb = []) (b : BitInfo) : (lock b s).outputs = s.outputs := by
  rw [lock_of_empty empty]

/-- Every row adds no record, or one Marker, or two (R129), or what a completed frame adds. -/
theorem EdgeCase.addsRecords {pos : Word} {s t : State} (row : EdgeCase pos s t) (h : Inv s) : AddsRecords s t := by
  cases row with
  | halted | gskip | glitch | short1 => exact addsRecords_none rfl
  | hLock m sync => exact addsRecords_none (lock_outputs (s := s.setRef pos) (h.huntingEmpty sync) _)
  | hOne => exact addsRecords_marker rfl
  | hLock2 m sync => exact addsRecords_marker (lock_outputs (s := skipShort pos s) (h.huntingEmpty sync) _)
  | hLenerr => rw [rejectDirect_rehunt]; exact addsRecords_marker rfl
  | hLenerr2 =>
    rw [rejectOnSecond_rehunt]
    exact addsRecords_markers [_, _] (List.append_assoc _ _ _) (by simp)
  | hTerr => rw [failSlot_rehunt rfl]; exact addsRecords_marker rfl
  | lTerr m sync half c cause =>
    rw [failSlot_rehunt (by rcases cause with rfl | rfl <;> rfl)]
    exact addsRecords_marker rfl
  | lZero => exact addsRecords_saveBit (u := s.setRef pos) rfl _
  | lOne => exact addsRecords_saveBit (u := (s.setRef pos).setHalf false) rfl _

theorem endRun_outputs {c : Cause} (hc : c = .sourceExhausted ∨ c = .cancelled) (s : State) :
    (endRun c s).outputs = s.outputs := by
  rw [endRun_eq s c hc]
  split <;> rfl

/-- Settles O48: only an edge adds records. -/
theorem outputsPerStep : Obligations.OutputsPerStep := by
  intro s t hv hs
  show AddsRecords s t
  cases step_inv hs with
  | none | idle | reset => exact addsRecords_none rfl
  | halt p rest inputs rst c cause => exact addsRecords_none (endRun_outputs cause (s.setInputs rest))
  | edge p rest t inputs rst asks row => exact row.addsRecords (hv.setInputs rest)

/-! ### The saturating preamble count -/

/-- `min(len(PR) / 2, 26)`, the count of R58. -/
def saturatedCount (l : List Word) : Nat := min (l.length / 2) 26

/-- The two agree but for `PR`, and there in the saturated count (R58). -/
def SameButPreamble (t t' : State) : Prop := ∃ l, t' = t.setPr l ∧ saturatedCount t.pr = saturatedCount l

theorem SameButPreamble.refl (t : State) : SameButPreamble t t := ⟨t.pr, rfl, rfl⟩

/-- A count that saturates above `PRE_MAX` still tells whether the length is in range (R125). -/
theorem lengthOk_setPr {s : State} {l : List Word} (count : saturatedCount s.pr = saturatedCount l) :
    lengthOk (s.setPr l) = lengthOk s := by
  refine decide_eq_decide.mpr ?_
  simp only [saturatedCount, preambleBits, State.setPr_pr, Config.preMin, Config.preMax] at count ⊢
  omega

theorem saturatedCount_append {l l' : List Word} (count : saturatedCount l = saturatedCount l') (a b : Word) :
    saturatedCount (l ++ [a, b]) = saturatedCount (l' ++ [a, b]) := by
  simp only [saturatedCount, List.length_append, List.length_cons, List.length_nil] at count ⊢
  omega

/-- The saturated count selects the same row (R80). -/
theorem dispatchBits_setPr {s : State} {l : List Word} (count : saturatedCount s.pr = saturatedCount l) (pos : Word) :
    dispatchBits pos (s.setPr l) = dispatchBits pos s := by
  simp only [dispatchBits, lengthOk_setPr count]
  rfl

theorem saveBit_setPr (b : BitInfo) (s : State) (l : List Word) :
    saveBit b (s.setPr l) = (saveBit b s).setPr l := by
  rcases saveBit_cases b s with ⟨notTen, e⟩ | ⟨ten, f, parts, e⟩ <;> rw [e]
  · exact saveBit_save (s := s.setPr l) b notTen
  · obtain ⟨f', parts', e'⟩ := saveBit_assemble (s := s.setPr l) b ten
    cases parts'.symm.trans parts
    exact e'

theorem lock_setPr (b : BitInfo) (s : State) (l : List Word) : lock b (s.setPr l) = (lock b s).setPr l :=
  saveBit_setPr b { s with sync := .locked, pktIdx := 0#64 } l

/-- `saveBit` and `lock` keep `PR`. -/
@[simp] theorem saveBit_pr (b : BitInfo) (s : State) : (saveBit b s).pr = s.pr := by
  rw [saveBit_frame]

@[simp] theorem lock_pr (b : BitInfo) (s : State) : (lock b s).pr = s.pr := saveBit_pr b _

section
variable {s : State} {l : List Word}

/-- What keeps `PR` keeps the agreement of the counts. -/
theorem sameButPreamble_setPr {u : State} (count : saturatedCount s.pr = saturatedCount l) (pr : u.pr = s.pr) :
    SameButPreamble u (u.setPr l) := ⟨l, rfl, pr ▸ count⟩

theorem sameButPreamble_saveBit {u : State} (count : saturatedCount s.pr = saturatedCount l) (pr : u.pr = s.pr)
    (b : BitInfo) : SameButPreamble (saveBit b u) (saveBit b (u.setPr l)) :=
  saveBit_setPr b u l ▸ sameButPreamble_setPr count ((saveBit_pr b u).trans pr)

theorem sameButPreamble_lock {u : State} (count : saturatedCount s.pr = saturatedCount l) (pr : u.pr = s.pr)
    (b : BitInfo) : SameButPreamble (lock b u) (lock b (u.setPr l)) :=
  lock_setPr b u l ▸ sameButPreamble_setPr count ((lock_pr b u).trans pr)

/-- `H_ONE` records the same pair (R122). -/
theorem sameButPreamble_recordOne (count : saturatedCount s.pr = saturatedCount l) (pos : Word) :
    SameButPreamble
      (((emitMarker .preambleBit s.slotStart (appendPair s.slotStart pos s)).setRef pos).setHalf false)
      (((emitMarker .preambleBit s.slotStart (appendPair s.slotStart pos (s.setPr l))).setRef pos).setHalf false) :=
  ⟨l ++ [s.slotStart, pos], rfl, saturatedCount_append count _ _⟩

end

/-- Where the hunt starts again `PR` is empty, whatever it held. -/
theorem rehunt_setPr (pos : Word) (o : List Output) (s : State) (l : List Word) :
    rehunt pos o (s.setPr l) = rehunt pos o s := rfl

theorem rejectDirect_setPr (pos : Word) (s : State) (l : List Word) :
    raise .directLength s.ref ((s.setPr l).setRef pos) = raise .directLength s.ref (s.setRef pos) :=
  (rejectDirect_rehunt pos (s.setPr l)).trans ((rehunt_setPr pos _ s l).trans (rejectDirect_rehunt pos s).symm)

theorem rejectOnSecond_setPr (pos : Word) (s : State) (l : List Word) :
    rejectOnSecond pos (s.setPr l) = rejectOnSecond pos s :=
  (rejectOnSecond_rehunt pos (s.setPr l)).trans ((rehunt_setPr pos _ s l).trans (rejectOnSecond_rehunt pos s).symm)

theorem failSlot_setPr {c : Cause} (timing : c.violation = .timing) (pos : Word) (s : State) (l : List Word) :
    failSlot c pos (s.setPr l) = failSlot c pos s :=
  (failSlot_rehunt timing pos (s.setPr l)).trans ((rehunt_setPr pos _ s l).trans (failSlot_rehunt timing pos s).symm)

/-- Every row has the same effect from the same saturated count: it keeps `PR`, appends one pair to it or empties
it (R57). -/
theorem row_setPr {s t : State} {pos : Word} {l : List Word} (count : saturatedCount s.pr = saturatedCount l)
    {op : DvOp} (h : exec (op.instr pos) s = .next t) :
    ∃ t', exec (op.instr pos) (s.setPr l) = .next t' ∧ SameButPreamble t t' := by
  have measures {e e' : Word → State} (effect : ∀ d, SameButPreamble (e d) (e' d))
      (he : measured pos s e = .next t) :
      ∃ t', measured pos (s.setPr l) e' = .next t' ∧ SameButPreamble t t' := by
    obtain ⟨order, rfl⟩ := measured_next.mp he
    exact ⟨_, measured_of_le order e', effect _⟩
  have forgets {u u' : State} (e : u' = u) : SameButPreamble u u' := e ▸ .refl u
  have fails {c : Cause} (timing : c.violation = .timing) :
      SameButPreamble (failSlot c pos s) (failSlot c pos (s.setPr l)) := forgets (failSlot_setPr timing pos s l)
  have keeps {u : State} (pr : u.pr = s.pr) : SameButPreamble u (u.setPr l) := sameButPreamble_setPr count pr
  cases op with
  | eHalt => cases h; exact ⟨_, rfl, keeps rfl⟩
  | eGskip => cases h; exact ⟨_, rfl, keeps (u := s.setGskip false) rfl⟩
  | eGlitch => exact measures (fun _ => keeps (u := s.setGskip true) rfl) h
  | hShort1 | lShort1 => exact measures (fun d => keeps (u := startSlot pos d s) rfl) h
  | hOne => exact measures (fun _ => sameButPreamble_recordOne count pos) h
  | hLock => exact measures (fun _ => sameButPreamble_lock (u := s.setRef pos) count rfl ⟨s.ref, pos, .zero⟩) h
  | hLock2 | hLock2Shared =>
    exact measures (fun _ => sameButPreamble_lock (u := skipShort pos s) count rfl ⟨s.ref, pos, .zero⟩) h
  | hLenerr => exact measures (fun _ => forgets (rejectDirect_setPr pos s l)) h
  | hLenerr2 | hLenerr2Shared => exact measures (fun _ => forgets (rejectOnSecond_setPr pos s l)) h
  | hTerr => exact measures (fun _ => fails (c := .huntingSum) rfl) h
  | lTerrLong => exact measures (fun _ => fails (c := .lockedLong) rfl) h
  | lTerrSum => exact measures (fun _ => fails (c := .lockedSum) rfl) h
  | lZero => exact measures (fun _ => sameButPreamble_saveBit (u := s.setRef pos) count rfl ⟨s.ref, pos, .zero⟩) h
  | lOne =>
    exact measures (fun _ =>
      sameButPreamble_saveBit (u := (s.setRef pos).setHalf false) count rfl ⟨s.slotStart, pos, .one⟩) h

theorem edge_setPr {s t : State} {pos : Word} {l : List Word} (count : saturatedCount s.pr = saturatedCount l)
    (h : exec (.edge pos) s = .next t) :
    ∃ t', exec (.edge pos) (s.setPr l) = .next t' ∧ SameButPreamble t t' := by
  rw [exec_edge] at h ⊢
  rw [dispatchBits_setPr count]
  exact row_setPr count h

/-- The end of a run neither reads nor writes `PR` (R173). -/
theorem endRun_setPr {s : State} {c : Cause} (hc : c = .sourceExhausted ∨ c = .cancelled) {l : List Word}
    (count : saturatedCount s.pr = saturatedCount l) : SameButPreamble (endRun c s) (endRun c (s.setPr l)) := by
  rw [endRun_eq s c hc, endRun_eq _ c hc, State.setPr_run]
  split <;> exact ⟨l, rfl, count⟩

/-- From the same saturated count a step does the same and leaves the same saturated count. -/
theorem step_setPr {s t : State} {l : List Word} (count : saturatedCount s.pr = saturatedCount l)
    (h : step s = .next t) : ∃ t', step (s.setPr l) = .next t' ∧ SameButPreamble t t' := by
  rcases step_cases h with ⟨hi, rfl⟩ | ⟨p, rest, hi, ⟨hf, rfl⟩ | ⟨i, hf, he⟩⟩
  · exact ⟨_, step_of_nil hi, l, rfl, count⟩
  · exact ⟨_, step_of_idle hi hf, l, rfl, count⟩
  · rw [step_of_instr (s := s.setPr l) hi hf]
    rcases fetch_cases p with ⟨h, -⟩ | ⟨h, -⟩ | ⟨-, -, ⟨h, -⟩ | ⟨h, -⟩ | ⟨h, -⟩ | ⟨h, -⟩⟩ <;> rw [hf] at h <;> cases h
    · exact ⟨t, he, .refl t⟩
    · exact edge_setPr (s := s.setInputs rest) count he
    · cases he
      exact ⟨_, rfl, endRun_setPr (s := s.setInputs rest) (.inl rfl) count⟩
    · cases he
      exact ⟨_, rfl, endRun_setPr (s := s.setInputs rest) (.inr rfl) count⟩

/-- Settles O51: `PR` is read only through the bit `pl` of the dispatch vector. -/
theorem saturatingPreambleCount : Obligations.SaturatingPreambleCount := by
  intro s t l count h
  obtain ⟨_, hs, l', rfl, count'⟩ := step_setPr count h
  exact ⟨l', hs, count'⟩

end Sys2Proof.Machine
end

section
/-! PROOFS. Encoding: the words of the formats and of the records, read back; the row an `EDGE` performs; the two
operations of `save_bit`. -/

namespace Sys2Proof

/-! ### Words of the four formats -/

theorem decode_evWord_edge (pos : Word) : decode (.ev (evWord 0#2 pos)) = .instr (.edge pos) := by
  simp [decode, decodeEv]

theorem decode_evWord_eos (pos : Word) : decode (.ev (evWord 1#2 pos)) = .instr .eos := by
  simp [decode, decodeEv]

theorem decode_evWord_cancel (pos : Word) : decode (.ev (evWord 2#2 pos)) = .instr .cancel := by
  simp [decode, decodeEv]

theorem decode_evWord_reserved (pos : Word) : decode (.ev (evWord 3#2 pos)) = .reservedEventOp := by
  simp [decode, decodeEv]

/-- The canonical word of a row, with a position, is the row's operation on that position (R81). -/
theorem decode_dvWord (op : DvOp) (pos : Word) : decode (.dv op.word pos) = .instr (op.instr pos) := by
  rw [decode, decodeDv_word]

/-- Settles O1, format by format. -/
theorem decodeEncode : Obligations.DecodeEncode := by
  intro i
  cases i with
  | eHalt pos => exact decode_dvWord .eHalt pos
  | eGskip pos => exact decode_dvWord .eGskip pos
  | eGlitch pos => exact decode_dvWord .eGlitch pos
  | hShort1 pos => exact decode_dvWord .hShort1 pos
  | hLock pos => exact decode_dvWord .hLock pos
  | hLenerr pos => exact decode_dvWord .hLenerr pos
  | hOne pos => exact decode_dvWord .hOne pos
  | hLock2 pos => exact decode_dvWord .hLock2 pos
  | hLock2Shared pos => exact decode_dvWord .hLock2Shared pos
  | hLenerr2 pos => exact decode_dvWord .hLenerr2 pos
  | hLenerr2Shared pos => exact decode_dvWord .hLenerr2Shared pos
  | hTerr pos => exact decode_dvWord .hTerr pos
  | lShort1 pos => exact decode_dvWord .lShort1 pos
  | lZero pos => exact decode_dvWord .lZero pos
  | lOne pos => exact decode_dvWord .lOne pos
  | lTerrLong pos => exact decode_dvWord .lTerrLong pos
  | lTerrSum pos => exact decode_dvWord .lTerrSum pos
  | edge pos => exact decode_evWord_edge pos
  | eos => exact decode_evWord_eos 0#64
  | cancel => exact decode_evWord_cancel 0#64
  | rst | faSave | faAssemble => rfl

/-- The bits below the `op` are the position (R71). -/
theorem evPos_eq_mod (w : EvWord) : evPos w = BitVec.ofNat 64 (w.toNat % 2 ^ 64) := by
  apply BitVec.eq_of_toNat_eq
  simp [evPos]

/-- Settles O2: an event word is its two fields, and the decoder reads either. -/
theorem eventWordLayout : Obligations.EventWordLayout := by
  intro w
  have fields {op : BitVec 2} (h : w.toNat / 2 ^ 64 = op.toNat) : w = evWord op (evPos w) := by
    have top : evOp w = op := BitVec.eq_of_toNat_eq ((Machine.evOp_toNat w).trans h)
    rw [← top, evWord_fields]
  rw [← evPos_eq_mod]
  refine ⟨fun h => ?_, fun h => ?_, fun h => ?_, fun h => ?_⟩
  · rw [fields (op := 0#2) h, decode_evWord_edge, evPos_evWord]
  · rw [fields (op := 1#2) h, decode_evWord_eos]
  · rw [fields (op := 2#2) h, decode_evWord_cancel]
  · rw [fields (op := 3#2) h, decode_evWord_reserved]

/-- Settles O3: the event words are written out from their fields, the other words decode by evaluation. -/
theorem writtenWordsDecode : Obligations.WrittenWordsDecode :=
  ⟨decode_evWord_edge 10000#64, decode_evWord_eos 0#64, decode_evWord_cancel 0#64, rfl, rfl, rfl, rfl, rfl⟩

/-! ### The dispatch vector and its table -/

/-- A vector's bits are read back from its word (R80). -/
@[simp] theorem Dv.ofWord_toWord (v : Dv) : Dv.ofWord v.toWord = v := by
  obtain ⟨ht, gs, lk, hf, s, l, ls, pl⟩ := v
  revert ht gs lk hf s l ls pl
  decide

/-- A row's pattern accepts the vectors the decoder reads as that row (R81). -/
theorem accepts_eq_decodeDv : ∀ r ∈ dvTable, ∀ v : DvWord, r.accepts v = decide (decodeDv v = r.op) := by
  decide

/-- The table names each row once (R81). -/
theorem length_filter_dvTable (op : DvOp) : (dvTable.filter fun r => decide (op = r.op)).length = 1 := by
  cases op <;> rfl

/-- Settles O4: the patterns and the decoder agree, and the table has one row for each answer of the decoder. -/
theorem dispatchTableComplete : Obligations.DispatchTableComplete := by
  intro v
  constructor
  · rw [List.filter_congr fun r hr => accepts_eq_decodeDv r hr v, length_filter_dvTable]
  · intro r hr accepted
    exact of_decide_eq_true ((accepts_eq_decodeDv r hr v).symm.trans accepted)

end Sys2Proof

namespace Sys2Proof.Machine

/-- Settles O5: each bit is a field of the condition bits, computed on the interval `d`. -/
theorem dispatchVectorBits : Obligations.DispatchVectorBits := by
  intro s pos d h
  have interval : (interval pos s.ref).toNat = d := by
    rw [interval_toNat (by omega)]
    omega
  have bits : Dv.ofWord (dispatchVector pos s) = dispatchBits pos s := Dv.ofWord_toWord _
  simp only [Dv.ofWord, dispatchBits, interval, Dv.mk.injEq] at bits
  exact bits

/-- The decoder reads the computed vector as the row `EDGE` performs (R81, R170). -/
theorem exec_edge_decodeDv (pos : Word) (s : State) :
    exec (.edge pos) s = exec ((decodeDv (dispatchVector pos s)).instr pos) s := by
  rw [exec_edge, decodeDv, dispatchVector, Dv.ofWord_toWord]

/-- Settles O6: the row that accepts the vector is the row the decoder reads. -/
theorem edgePerformsMatchingRow : Obligations.EdgePerformsMatchingRow := by
  intro s pos r hr accepted
  obtain ⟨-, decoded⟩ := dispatchTableComplete (dispatchVector pos s)
  rw [exec_edge_decodeDv, decoded r hr accepted]

/-! ### The windows -/

theorem classify_short_iff (s : State) (d : Nat) : classify s d = .short ↔ isShort s d = true := by
  unfold classify
  split
  · next short => simp [short]
  · next notShort => split <;> simp [notShort]

theorem classify_long_iff (s : State) (d : Nat) :
    classify s d = .long ↔ isShort s d = false ∧ isLong s d = true := by
  unfold classify
  split
  · next short => simp [short]
  · next notShort =>
    split
    · next long => simp [notShort, long]
    · next notLong => simp [notLong]

/-- Settles O9: a bound that truncates at 0 excludes no interval. -/
theorem windowPredicates : Obligations.WindowPredicates := by
  intro s d
  have closed (mid err : Nat) : (mid - err ≤ d ∧ d ≤ mid + err) ↔ ((mid : Int) - err ≤ d ∧ d ≤ mid + err) := by
    omega
  refine ⟨(isShort_iff s d).trans (closed _ _), (isLong_iff s d).trans (closed _ _), classify_short_iff s d,
    classify_long_iff s d, ?_⟩
  rw [classify_glitch_iff, not_or, Bool.not_eq_true, Bool.not_eq_true]

/-! ### The packed records -/

/-- Four fields laid above the low `g` bits, each cut out at its place. -/
theorem extract_fields_above {a b c d g : Nat} (x1 : BitVec a) (x2 : BitVec b) (x3 : BitVec c) (x4 : BitVec d)
    (low : BitVec g) :
    (x1 ++ x2 ++ x3 ++ x4 ++ low).extractLsb' (b + c + d + g) a = x1 ∧
    (x1 ++ x2 ++ x3 ++ x4 ++ low).extractLsb' (c + d + g) b = x2 ∧
    (x1 ++ x2 ++ x3 ++ x4 ++ low).extractLsb' (d + g) c = x3 ∧
    (x1 ++ x2 ++ x3 ++ x4 ++ low).extractLsb' g d = x4 := by
  simp [BitVec.extractLsb'_append_eq_of_le, BitVec.extractLsb'_append_eq_of_add_le]

/-- Settles O7: the four wide fields stand above the two flags. -/
theorem frameRecordLayout : Obligations.FrameRecordLayout := by
  intro f
  have flags : f.pack =
      f.first ++ f.last ++ f.idx ++ f.byte ++ (BitVec.ofBool f.parityOk ++ BitVec.ofBool f.stopOk) :=
    BitVec.append_assoc
  have wide : f.pack.extractLsb' 138 64 = f.first ∧ f.pack.extractLsb' 74 64 = f.last ∧
      f.pack.extractLsb' 10 64 = f.idx ∧ f.pack.extractLsb' 2 8 = f.byte := by
    rw [flags]
    exact extract_fields_above f.first f.last f.idx f.byte _
  obtain ⟨first, last, idx, byte⟩ := wide
  have parity : f.pack.getLsbD 1 = f.parityOk := by
    rw [Frame.pack_bit]
    simp
  have stop : f.pack.getLsbD 0 = f.stopOk := by
    rw [Frame.pack_bit]
    simp
  refine ⟨first, last, idx, byte, parity, stop, ?_⟩
  rw [Frame.unpack, first, last, idx, byte, parity, stop]

theorem marker_pack_toNat (m : Marker) : m.pack.toNat = m.kind.code.toNat * 2 ^ 64 + m.pos.toNat := by
  rw [Marker.pack, BitVec.toNat_append, ← Nat.shiftLeft_add_eq_or_of_lt m.pos.isLt, Nat.shiftLeft_eq]

/-- A kind is read back from its code (R85). -/
theorem MarkerKind.ofCode?_code (k : MarkerKind) : MarkerKind.ofCode? k.code = some k := by
  cases k <;> rfl

/-- The reserved codes name no kind (R86). -/
theorem MarkerKind.ofCode?_reserved :
    ∀ c : BitVec 4, 4 ≤ c.toNat → c.toNat ≤ 7 ∨ 13 ≤ c.toNat → MarkerKind.ofCode? c = none := by decide

theorem marker_unpack_pack (m : Marker) : Marker.unpack? m.pack = some m := by
  have kind : m.pack.extractLsb' 64 4 = m.kind.code := by
    apply BitVec.eq_of_getLsbD_eq
    intro i hi
    simp [Marker.pack_bit, hi]
  have pos : m.pack.extractLsb' 0 64 = m.pos := by
    apply BitVec.eq_of_getLsbD_eq
    intro i hi
    simp [Marker.pack_bit, hi]
  rw [Marker.unpack?, kind, pos, MarkerKind.ofCode?_code]

/-- The bits above the position are the code (R85). -/
theorem marker_code_toNat (w : MarkerWord) : (w.extractLsb' 64 4).toNat = w.toNat / 2 ^ 64 := by
  have := w.isLt
  rw [BitVec.extractLsb'_toNat, Nat.shiftRight_eq_div_pow]
  omega

/-- Settles O8: packing and reading back, then the reserved codes, then the table of codes. -/
theorem markerRecordLayout : Obligations.MarkerRecordLayout := by
  refine ⟨fun m => ⟨marker_pack_toNat m, marker_unpack_pack m⟩, fun w low reserved => ?_, rfl⟩
  rw [← marker_code_toNat] at low reserved
  rw [Marker.unpack?, MarkerKind.ofCode?_reserved _ low reserved]

/-! ### The two operations of `save_bit` -/

theorem bufferFull_iff (s : State) : bufferFull s = 1#1 ↔ s.bb.length = 11 := by
  unfold bufferFull
  split
  · next full => exact ⟨fun _ => full, fun _ => rfl⟩
  · next notFull => exact ⟨fun bit => absurd bit (by decide), fun full => absurd full notFull⟩

/-- Settles O37: the condition bit after the append tells the two outcomes of `save_bit` apart. -/
theorem saveBitSelectsRow : Obligations.SaveBitSelectsRow := by
  intro s b
  have full : bufferFull { s with bb := s.bb ++ [b] } = 1#1 ↔ s.bb.length = 10 := by
    rw [bufferFull_iff, List.length_append, List.length_singleton, Nat.add_right_cancel_iff]
  refine ⟨full, ?_⟩
  rcases saveBit_cases b s with ⟨notTen, saved⟩ | ⟨ten, f, parts, assembled⟩
  · rw [decodeFa, if_neg (mt full.mp notTen), saved]
    rfl
  · rw [decodeFa, if_pos (full.mpr ten), assembled]
    rw [FaOp.instr, exec_faAssemble, parts]
    exact congrArg _ (assemble_eq f _)

end Sys2Proof.Machine
end

section
/-! PROOFS. Nominal signals: an edge performs the row whose condition holds; what the nominal bits of R91 do, alone, as
a preamble, as a frame and as a packet. -/

namespace Sys2Proof.Machine

/-! ### The converse of `edge_cases` -/

/-- When the condition of a row holds, `EDGE` has the row's effect (R81, R170). -/
theorem EdgeCase.exec_edge {pos : Word} {s t : State} (row : EdgeCase pos s t) : exec (.edge pos) s = .next t := by
  obtain ⟨-, running, -, isLocked, isHunting, -, -, -, sumBit, -⟩ := dispatchBits_facts pos s
  have sumOf (half : s.half = true) : (dispatchBits pos s).ls = isLong s (slotSum s (dist pos s)) := by
    rw [sumBit, half, Bool.true_and]
  have measures {op : DvOp} {effect : Word → State} (m : Measures pos s) (demands : op.demands (dispatchBits pos s))
      (arm : exec (op.instr pos) s = measured pos s effect) :
      exec (.edge pos) s = .next (effect (interval pos s.ref)) := by
    rw [edge_of_demands demands, arm, measured_of_le m.order]
  cases row with
  | halted run => exact edge_of_demands (op := .eHalt) (decide_eq_true run)
  | gskip run g => exact edge_of_demands (op := .eGskip) ⟨running.mpr run, g⟩
  | glitch m short long =>
    exact measures (op := .eGlitch) m ⟨running.mpr m.run, m.gskip, short, long⟩ (exec_eGlitch pos s)
  | short1 m half short =>
    cases sync : s.sync with
    | hunting =>
      exact measures (op := .hShort1) m ⟨running.mpr m.run, m.gskip, isHunting.mpr sync, half, short⟩
        (exec_hShort1 pos s)
    | locked =>
      exact measures (op := .lShort1) m ⟨running.mpr m.run, m.gskip, isLocked.mpr sync, half, short⟩
        (exec_lShort1 pos s)
  | hLock m sync half short long len =>
    exact measures (op := .hLock) m ⟨running.mpr m.run, m.gskip, isHunting.mpr sync, half, short, long, len⟩
      (exec_hLock pos s)
  | hLenerr m sync half short long len =>
    exact measures (op := .hLenerr) m ⟨running.mpr m.run, m.gskip, isHunting.mpr sync, half, short, long, len⟩
      (exec_hLenerr pos s)
  | hOne m sync half short sum =>
    exact measures (op := .hOne) m
      ⟨running.mpr m.run, m.gskip, isHunting.mpr sync, half, short, (sumOf half).trans sum⟩ (exec_hOne pos s)
  | hLock2 m sync half long notOne len =>
    cases short : isShort s (dist pos s) with
    | false =>
      exact measures (op := .hLock2) m ⟨running.mpr m.run, m.gskip, isHunting.mpr sync, half, short, long, len⟩
        (exec_hLock2 pos s)
    | true =>
      have sum := notOne.resolve_left (by simp [short])
      exact measures (op := .hLock2Shared) m
        ⟨running.mpr m.run, m.gskip, isHunting.mpr sync, half, short, long, (sumOf half).trans sum, len⟩
        (exec_hLock2Shared pos s)
  | hLenerr2 m sync half long notOne len =>
    cases short : isShort s (dist pos s) with
    | false =>
      exact measures (op := .hLenerr2) m ⟨running.mpr m.run, m.gskip, isHunting.mpr sync, half, short, long, len⟩
        (exec_hLenerr2 pos s)
    | true =>
      have sum := notOne.resolve_left (by simp [short])
      exact measures (op := .hLenerr2Shared) m
        ⟨running.mpr m.run, m.gskip, isHunting.mpr sync, half, short, long, (sumOf half).trans sum, len⟩
        (exec_hLenerr2Shared pos s)
  | hTerr m sync half short long sum =>
    exact measures (op := .hTerr) m
      ⟨running.mpr m.run, m.gskip, isHunting.mpr sync, half, short, long, (sumOf half).trans sum⟩
      (exec_hTerr pos s)
  | lZero m sync half short long =>
    exact measures (op := .lZero) m ⟨running.mpr m.run, m.gskip, isLocked.mpr sync, half, short, long⟩
      (exec_lZero pos s)
  | lOne m sync half short sum =>
    exact measures (op := .lOne) m
      ⟨running.mpr m.run, m.gskip, isLocked.mpr sync, half, short, (sumOf half).trans sum⟩ (exec_lOne pos s)
  | lTerr m sync half c cause window notOne =>
    have sameViolation (c' : Cause) (timing : c'.violation = .timing) : failSlot c pos s = failSlot c' pos s := by
      rw [failSlot_rehunt timing, failSlot_rehunt (by rcases cause with rfl | rfl <;> rfl)]
    cases short : isShort s (dist pos s) with
    | false =>
      have long := window.resolve_left (by simp [short])
      rw [sameViolation .lockedLong rfl]
      exact measures (op := .lTerrLong) m ⟨running.mpr m.run, m.gskip, isLocked.mpr sync, half, short, long⟩
        (exec_lTerrLong pos s)
    | true =>
      have sum := notOne.resolve_left (by simp [short])
      rw [sameViolation .lockedSum rfl]
      exact measures (op := .lTerrSum) m
        ⟨running.mpr m.run, m.gskip, isLocked.mpr sync, half, short, (sumOf half).trans sum⟩ (exec_lTerrSum pos s)

/-! ### The events of an expansion, taken from a state -/

theorem runSteps_one (s : State) : runSteps 1 s = step s := by
  rw [runSteps]
  cases step s <;> rfl

theorem runSteps_add {m : Nat} {s t : State} (h : runSteps m s = .next t) (n : Nat) :
    runSteps (m + n) s = runSteps n t := by
  induction m generalizing s with
  | zero =>
    cases h
    rw [Nat.zero_add]
  | succ m ih =>
    rw [Nat.succ_add, runSteps]
    rw [runSteps] at h
    split at h
    · exact ih h
    · cases h
    · cases h

/-- From `s` the block takes the events of the expansion, whatever stands behind them, and is then, but for the
presentations to come, in `t`, where the trace stands; the constants are kept (R90, R91). -/
structure Follows (f : TraceEnv → List Ports × TraceEnv) (s t : State) : Prop where
  run : ∀ rest, runSteps (f (traceEnv s)).1.length (s.setInputs ((f (traceEnv s)).1 ++ rest)) =
    .next (t.setInputs rest)
  env : traceEnv t = (f (traceEnv s)).2
  constants : SameConstants s t

theorem Follows.of_inputs {f : TraceEnv → List Ports × TraceEnv} {s t : State} {rest : List Ports}
    (h : Follows f s t) (inputs : s.inputs = (f (traceEnv s)).1 ++ rest) :
    runSteps (f (traceEnv s)).1.length s = .next (t.setInputs rest) := by
  have run := h.run rest
  rw [← inputs] at run
  exact run

theorem Follows.congr {f g : TraceEnv → List Ports × TraceEnv} {s t : State} (h : Follows f s t)
    (same : f (traceEnv s) = g (traceEnv s)) : Follows g s t := by
  obtain ⟨run, env, constants⟩ := h
  rw [same] at run env
  exact ⟨run, env, constants⟩

theorem Follows.nil (s : State) : Follows (fun e => ([], e)) s s :=
  ⟨fun _ => rfl, rfl, ⟨rfl, rfl, rfl, rfl, rfl⟩⟩

theorem Follows.seq {f g : TraceEnv → List Ports × TraceEnv} {s t u : State} (hf : Follows f s t)
    (hg : Follows g t u) : Follows (traceSeq f g) s u where
  run rest := by
    simp only [traceSeq, ← hf.env, List.length_append, List.append_assoc]
    rw [runSteps_add (hf.run _), hg.run]
  env := by simp only [traceSeq, ← hf.env, hg.env]
  constants := hf.constants.trans hg.constants

theorem Follows.cons {x : TraceItem} {xs : List TraceItem} {s t u : State} (head : Follows (expand x) s t)
    (tail : Follows (expandAll xs) t u) : Follows (expandAll (x :: xs)) s u :=
  (head.seq tail).congr rfl

/-- The position `n` samples after the reference (R90). -/
def State.ahead (s : State) (n : Nat) : Word := BitVec.ofNat 64 (s.ref.toNat + n)

theorem State.ahead_toNat {s : State} {n : Nat} (fits : s.ref.toNat + n < 2 ^ 64) :
    (s.ahead n).toNat = s.ref.toNat + n := by
  rw [State.ahead, BitVec.toNat_ofNat, Nat.mod_eq_of_lt fits]

/-- One edge `n` samples after the reference, which becomes the new reference. -/
theorem follows_edge {s t : State} {n : Nat} (m : Measuring s) (fits : s.ref.toNat + n < 2 ^ 64)
    (ref : t.ref = s.ahead n)
    (row : ∀ l, Measures (s.ahead n) (s.setInputs l) → dist (s.ahead n) (s.setInputs l) = n →
      EdgeCase (s.ahead n) (s.setInputs l) (t.setInputs l)) : Follows (traceStep n) s t := by
  have pos := State.ahead_toNat fits
  have measures (l : List Ports) : Measures (s.ahead n) (s.setInputs l) := by
    refine ⟨m.run, m.gskip, ?_⟩
    rw [State.setInputs_ref]
    omega
  have distance (l : List Ports) : dist (s.ahead n) (s.setInputs l) = n := by
    rw [dist, interval_toNat (measures l).order, State.setInputs_ref]
    omega
  obtain ⟨fs, long, short, errLong, errShort⟩ := (row [] (measures []) (distance [])).frame.constants
  refine ⟨fun rest => ?_, ?_, fs, long, short, errLong, errShort⟩
  · have taken : step (s.setInputs (edgeAt (s.ref.toNat + n) :: rest)) = .next (t.setInputs rest) :=
      (step_of_instr rfl (fetch_ofEvent_edge _)).trans (row rest (measures rest) (distance rest)).exec_edge
    exact (runSteps_one _).trans taken
  · rw [traceEnv, ref, pos]
    exact congrArg₂ (TraceEnv.mk _) (congrArg _ short) (congrArg _ long)

/-! ### The nominal bits -/

/-- The block stands between two bit slots, at a supported rate (R26, R31). -/
structure AtSlotBoundary (s : State) : Prop where
  constants : ConstantsOk s
  between : BetweenSlots s

theorem AtSlotBoundary.of_same {s t : State} (h : AtSlotBoundary s) (k : SameConstants s t) (run : t.run = s.run)
    (gskip : t.gskip = s.gskip) (half : t.half = false) : AtSlotBoundary t :=
  ⟨h.constants.of_same k, run.trans h.between.run, gskip.trans h.between.gskip, half⟩

theorem AtSlotBoundary.setInputs {s : State} (h : AtSlotBoundary s) (l : List Ports) :
    AtSlotBoundary (s.setInputs l) :=
  h.of_same (setInputs_sameConstants s l) rfl rfl h.between.half

theorem BetweenSlots.measuring {s : State} (h : BetweenSlots s) : Measuring s := ⟨h.run, h.gskip⟩

/-- The two nominal Shorts of a One are not longer than the nominal Long of a Zero. -/
theorem ConstantsOk.two_tShort_le {s : State} (h : ConstantsOk s) : 2 * s.tShort.toNat ≤ s.tLong.toNat := by
  have := h.tShort_eq
  omega

theorem isShort_tShort (s : State) : isShort s s.tShort.toNat = true := by
  rw [isShort_iff]
  omega

theorem ConstantsOk.isLong_two_tShort {s : State} (h : ConstantsOk s) :
    isLong s (s.tShort.toNat + s.tShort.toNat) = true := by
  have := h.tLong_ge
  have := h.tShort_eq
  have := h.errLong_eq
  rw [isLong_iff]
  omega

theorem isLong_tLong (s : State) : isLong s s.tLong.toNat = true := by
  rw [isLong_iff]
  omega

theorem ConstantsOk.not_isShort_tLong {s : State} (h : ConstantsOk s) : isShort s s.tLong.toNat = false := by
  have := h.tLong_ge
  have := h.tShort_eq
  have := h.errShort_eq
  rw [Bool.eq_false_iff, ne_eq, isShort_iff]
  omega

/-- After the first nominal Short of a slot (R121, R141). -/
def halfOne (s : State) : State := startSlot (s.ahead s.tShort.toNat) s.tShort s

theorem follows_firstShort {s : State} (h : AtSlotBoundary s) (fits : s.ref.toNat + s.tShort.toNat < 2 ^ 64) :
    Follows (traceStep s.tShort.toNat) s (halfOne s) := by
  refine follows_edge h.between.measuring fits rfl fun l m distance => ?_
  have first : interval (s.ahead s.tShort.toNat) s.ref = s.tShort := BitVec.eq_of_toNat_eq distance
  have opened : (halfOne s).setInputs l =
      startSlot (s.ahead s.tShort.toNat) (interval (s.ahead s.tShort.toNat) s.ref) (s.setInputs l) := by
    rw [first]
    rfl
  rw [opened]
  refine .short1 m h.between.half ?_
  rw [distance]
  exact isShort_tShort s

/-- A nominal One is taken when its second edge performs a row for Short and Short summing to Long. -/
theorem follows_one {s t : State} (h : AtSlotBoundary s) (fits : s.ref.toNat + 2 * s.tShort.toNat < 2 ^ 64)
    (ref : t.ref = s.ahead (2 * s.tShort.toNat))
    (row : ∀ l, let u := (halfOne s).setInputs l
      Measures t.ref u → isShort u (dist t.ref u) = true → isLong u (slotSum u (dist t.ref u)) = true →
        EdgeCase t.ref u (t.setInputs l)) : Follows (traceBit .one) s t := by
  have half : (halfOne s).ref.toNat = s.ref.toNat + s.tShort.toNat := State.ahead_toNat (by omega)
  have second : t.ref = (halfOne s).ahead s.tShort.toNat := by
    rw [ref, State.ahead, State.ahead, half]
    congr 1
    omega
  have first : Follows (traceStep s.tShort.toNat) s (halfOne s) := follows_firstShort h (by omega)
  have rest : Follows (traceStep s.tShort.toNat) (halfOne s) t := by
    refine follows_edge ⟨h.between.run, h.between.gskip⟩ (by omega) second fun l m distance => ?_
    rw [← second] at m distance ⊢
    refine row l m ?_ ?_ <;> rw [distance]
    · exact isShort_tShort s
    · exact h.constants.isLong_two_tShort
  exact (first.seq rest).congr rfl

/-- A nominal Zero is taken when its edge performs a row for a direct Long. -/
theorem follows_zero {s t : State} (h : AtSlotBoundary s) (fits : s.ref.toNat + s.tLong.toNat < 2 ^ 64)
    (ref : t.ref = s.ahead s.tLong.toNat)
    (row : ∀ l, let u := s.setInputs l
      Measures t.ref u → isShort u (dist t.ref u) = false → isLong u (dist t.ref u) = true →
        EdgeCase t.ref u (t.setInputs l)) : Follows (traceBit .zero) s t := by
  refine (follows_edge h.between.measuring fits ref fun l m distance => ?_).congr rfl
  rw [← ref] at m distance ⊢
  refine row l m ?_ ?_ <;> rw [distance]
  · exact h.constants.not_isShort_tLong
  · exact isLong_tLong s

/-! ### The preamble -/

/-- After a nominal One while hunting (R122). -/
def preambleOne (s : State) : State := { halfOne s with
  pr := s.pr ++ [s.ref, s.ahead (2 * s.tShort.toNat)]
  outputs := s.outputs ++ [.marker ⟨.preambleBit, s.ref⟩]
  ref := s.ahead (2 * s.tShort.toNat)
  half := false }

theorem follows_preambleOne {s : State} (h : AtSlotBoundary s) (sync : s.sync = .hunting)
    (fits : s.ref.toNat + 2 * s.tShort.toNat < 2 ^ 64) : Follows (traceBit .one) s (preambleOne s) :=
  follows_one h fits rfl fun _ m short sum => .hOne m sync rfl short sum

/-- What `n` nominal Ones do while hunting: `n` bits are recorded and no Frame is emitted (R131). -/
structure OnesRecorded (n : Nat) (s t : State) : Prop where
  boundary : AtSlotBoundary t
  sync : t.sync = .hunting
  bb : t.bb = s.bb
  pr : t.pr.length = s.pr.length + 2 * n
  ref : t.ref.toNat = s.ref.toNat + n * (2 * s.tShort.toNat)
  frames : frameStream t = frameStream s

theorem OnesRecorded.ref_eq {n : Nat} {s t : State} (h : OnesRecorded n s t) :
    t.ref = BitVec.ofNat 64 (s.ref.toNat + n * (2 * s.tShort.toNat)) := by
  rw [← h.ref, BitVec.ofNat_toNat, BitVec.setWidth_eq]

theorem frameStream_of_marker {s t : State} {m : Marker} (outputs : t.outputs = s.outputs ++ [.marker m]) :
    frameStream t = frameStream s := by
  simp [frameStream, outputs, Output.frame?]

/-- `PRE n` while hunting, by induction on the number of Ones. -/
theorem follows_ones (n : Nat) {s : State} (h : AtSlotBoundary s) (sync : s.sync = .hunting)
    (fits : s.ref.toNat + n * (2 * s.tShort.toNat) < 2 ^ 64) :
    ∃ t, Follows (traceRep (traceBit .one) n) s t ∧ OnesRecorded n s t := by
  induction n generalizing s with
  | zero => exact ⟨s, (Follows.nil s).congr rfl, h, sync, rfl, rfl, by omega, rfl⟩
  | succ n ih =>
    rw [Nat.succ_mul n] at fits
    have one : Follows (traceBit .one) s (preambleOne s) := follows_preambleOne h sync (by omega)
    have ref : (preambleOne s).ref.toNat = s.ref.toNat + 2 * s.tShort.toNat := State.ahead_toNat (by omega)
    have boundary : AtSlotBoundary (preambleOne s) := h.of_same one.constants rfl rfl rfl
    have short : (preambleOne s).tShort = s.tShort := rfl
    obtain ⟨t, ones, recorded⟩ := ih boundary sync (by rw [short]; omega)
    refine ⟨t, (one.seq ones).congr rfl, recorded.boundary, recorded.sync, recorded.bb, ?_, ?_, ?_⟩
    · rw [recorded.pr, preambleOne, List.length_append, List.length_cons, List.length_singleton]
      omega
    · rw [recorded.ref, ref, short, Nat.succ_mul n]
      omega
    · exact recorded.frames.trans (frameStream_of_marker rfl)

/-- After a nominal Zero that follows 11 to 25 recorded Ones (R123, R126). -/
def lockedOnZero (s : State) : State := { s with
  ref := s.ahead s.tLong.toNat
  sync := .locked
  pktIdx := 0#64
  bb := [⟨s.ref, s.ahead s.tLong.toNat, .zero⟩] }

theorem follows_lock {s : State} (h : AtSlotBoundary s) (sync : s.sync = .hunting) (empty : s.bb = [])
    (len : lengthOk s = true) (fits : s.ref.toNat + s.tLong.toNat < 2 ^ 64) :
    Follows (traceBit .zero) s (lockedOnZero s) := by
  refine follows_zero h fits rfl fun l m short long => ?_
  have row := EdgeCase.hLock m sync h.between.half short long len
  rw [lock_of_empty (show ((s.setInputs l).setRef _).bb = [] from empty)] at row
  exact row

theorem lockedOnZero_boundary {s : State} (h : AtSlotBoundary s) : AtSlotBoundary (lockedOnZero s) :=
  h.of_same ⟨rfl, rfl, rfl, rfl, rfl⟩ rfl rfl h.between.half

/-- After a nominal Zero that follows any other number of Ones (R128). -/
def rejectedOnZero (s : State) : State :=
  rehunt (s.ahead s.tLong.toNat) (s.outputs ++ [.marker ⟨.errLength, s.ref⟩]) s

theorem follows_reject {s : State} (h : AtSlotBoundary s) (sync : s.sync = .hunting)
    (len : lengthOk s = false) (fits : s.ref.toNat + s.tLong.toNat < 2 ^ 64) :
    Follows (traceBit .zero) s (rejectedOnZero s) := by
  refine follows_zero h fits rfl fun l m short long => ?_
  have row := EdgeCase.hLenerr m sync h.between.half short long len
  rw [rejectDirect_rehunt] at row
  exact row

theorem rejectedOnZero_boundary {s : State} (h : AtSlotBoundary s) : AtSlotBoundary (rejectedOnZero s) :=
  h.of_same ⟨rfl, rfl, rfl, rfl, rfl⟩ rfl rfl rfl

theorem length_traceRep_one (n : Nat) (e : TraceEnv) : (traceRep (traceBit .one) n e).1.length = 2 * n := by
  induction n generalizing e with
  | zero => rfl
  | succ n ih =>
    rw [traceRep, traceSeq, List.length_append, ih]
    show 2 + 2 * n = _
    omega

/-- The edges of `PRE n` and `ZERO` (R91). -/
theorem length_expand_preamble (n : Nat) (e : TraceEnv) : (expandAll [.pre n, .zero] e).1.length = 2 * n + 1 := by
  show ((traceRep (traceBit .one) n e).1 ++ _).length = _
  rw [List.length_append, length_traceRep_one]
  rfl

/-- With nothing recorded before, the length is in range exactly for 11 to 25 Ones (R125). -/
theorem OnesRecorded.lengthOk_iff {n : Nat} {s t : State} (h : OnesRecorded n s t) (pr : s.pr = []) :
    lengthOk t = true ↔ 11 ≤ n ∧ n ≤ 25 := by
  have count : preambleBits t = n := by
    rw [preambleBits, h.pr, pr, List.length_nil]
    omega
  rw [lengthOk, count]
  exact decide_eq_true_iff

/-- Settles O55: the Ones are recorded one by one, then the Zero locks or is rejected by their number. -/
theorem nominalPreamble : Obligations.NominalPreamble := by
  intro s n rest constants between sync pr bb fits inputs
  have slower := Nat.mul_le_mul_left n constants.two_tShort_le
  rw [Nat.succ_mul n] at fits
  obtain ⟨u, ones, recorded⟩ := follows_ones n ⟨constants, between⟩ sync (by omega)
  have long : u.tLong = s.tLong := ones.constants.tLong
  have room : u.ref.toNat + u.tLong.toNat < 2 ^ 64 := by
    rw [recorded.ref, long]
    omega
  have finish : (u.ahead u.tLong.toNat).toNat = s.ref.toNat + n * (2 * s.tShort.toNat) + s.tLong.toNat := by
    rw [State.ahead_toNat room, recorded.ref, long]
  have run {t : State} (zero : Follows (traceBit .zero) u t) :
      runSteps (2 * n + 1) s = .next (t.setInputs rest) ∧
        traceEnv t = (expandAll [.pre n, .zero] (traceEnv s)).2 := by
    have trace : Follows (expandAll [.pre n, .zero]) s t :=
      .cons (x := .pre n) ones (.cons (x := .zero) zero ((Follows.nil t).congr rfl))
    exact ⟨length_expand_preamble n (traceEnv s) ▸ trace.of_inputs inputs, trace.env⟩
  rw [← recorded.ref_eq]
  cases len : lengthOk u with
  | true =>
    obtain ⟨taken, env⟩ := run (follows_lock recorded.boundary recorded.sync (recorded.bb.trans bb) len room)
    obtain ⟨constants', between'⟩ := (lockedOnZero_boundary recorded.boundary).setInputs rest
    exact ⟨_, taken, rfl, between', constants', env, recorded.frames, finish, fun _ => ⟨rfl, rfl, rfl⟩,
      fun outside => absurd ((recorded.lengthOk_iff pr).mp len) outside⟩
  | false =>
    obtain ⟨taken, env⟩ := run (follows_reject recorded.boundary recorded.sync len room)
    obtain ⟨constants', between'⟩ := (rejectedOnZero_boundary recorded.boundary).setInputs rest
    exact ⟨_, taken, rfl, between', constants', env, (frameStream_of_marker rfl).trans recorded.frames, finish,
      fun inside => absurd ((recorded.lengthOk_iff pr).mpr inside) (by simp [len]),
      fun _ => ⟨rfl, rfl, rfl, List.getLast?_concat⟩⟩

/-! ### The byte and the flags of a frame, from the values of its bits -/

/-- Bit `j` of the payload is the value of the data bit with that index (R153). -/
theorem payloadFrom_bit (l : List BitInfo) (i : Nat) {j : Nat} (h : j < 8) :
    (payloadFrom i l).getLsbD j = decide (i ≤ j ∧ (l.map BitInfo.value)[j - i]? = some .one) := by
  induction l generalizing i with
  | nil => simp [payloadFrom]
  | cons b rest ih =>
    rw [payloadFrom, BitVec.getLsbD_or, ih, BitVec.getLsbD_shiftLeft]
    obtain below | rfl | above : j < i ∨ j = i ∨ i < j := by omega
    · simp [below, show ¬i ≤ j by omega, show ¬i + 1 ≤ j by omega]
    · cases value : b.value <;> simp [bitByte, h, value]
    · obtain ⟨k, rfl⟩ : ∃ k, j = i + 1 + k := ⟨j - (i + 1), by omega⟩
      have high (x : BitValue) : (bitByte x).getLsbD (k + 1) = false := by
        cases x <;> simp [bitByte]
      simp [h, high, show i + 1 + k - i = k + 1 by omega, show i + 1 + k - (i + 1) = k by omega,
        show ¬i + 1 + k < i by omega, show i ≤ i + 1 + k by omega]

/-- The ones of the data bits, counted by value (R154). -/
theorem ones_eq_count (l : List BitInfo) : ones l = (l.map BitInfo.value).count .one := by
  induction l with
  | nil => rfl
  | cons b rest ih =>
    rw [ones, ih, List.map_cons, List.count_cons]
    cases b.value <;> simp [bitNat, Nat.add_comm]

/-- The data bits of a byte on the wire, least significant first (R91). -/
def byteBits (v : BitVec 8) : List BitValue := (List.range 8).map fun i => bitOf (v.getLsbD i)

theorem bitOf_eq_one (b : Bool) : bitOf b = .one ↔ b = true := by
  cases b <;> simp [bitOf]

theorem payloadByte_of_byteBits {data : List BitInfo} {v : BitVec 8} (h : data.map BitInfo.value = byteBits v) :
    payloadByte data = v := by
  apply BitVec.eq_of_getLsbD_eq
  intro j hj
  rw [payloadByte, payloadFrom_bit data 0 hj, h]
  simp [byteBits, hj, bitOf_eq_one]

theorem ones_of_byteBits {data : List BitInfo} {v : BitVec 8} (h : data.map BitInfo.value = byteBits v) :
    ones data = ((List.range 8).filter v.getLsbD).length := by
  rw [ones_eq_count, h, byteBits, List.count_eq_countP, List.countP_map, ← List.countP_eq_length_filter]
  congr 1
  funext i
  show (bitOf (v.getLsbD i) == .one) = v.getLsbD i
  cases v.getLsbD i <;> rfl

theorem parityOk_of_byteBits {data : List BitInfo} {v : BitVec 8} (h : data.map BitInfo.value = byteBits v)
    (parity : BitInfo) : parityOk data parity = decide (parity.value = oddParity v) := by
  rw [parityOk, expectedParity, ones_of_byteBits h, oddParity]
  obtain even | odd := Nat.mod_two_eq_zero_or_one ((List.range 8).filter v.getLsbD).length
  · rw [even]
    cases parity.value <;> rfl
  · rw [odd]
    cases parity.value <;> rfl

/-- The Frame of a byte with the given parity and stop bits (R84, R157). -/
def wireFrame (first finish idx : Word) (v : BitVec 8) (parity stop : BitValue) : Frame where
  first := first
  last := finish - 1#64
  idx := idx
  byte := v
  parityOk := decide (parity = oddParity v)
  stopOk := decide (stop = .one)

theorem wireBits_eq (v : BitVec 8) (start parity stop : BitValue) :
    wireBits v start parity stop = start :: (byteBits v ++ [parity, stop]) := rfl

/-- Eleven entries with the values of a byte on the wire are assembled to its Frame (R152 to R157). -/
theorem frameRecord_of_wireBits {buffered : List BitInfo} {last : BitInfo} {f : FrameParts} {v : BitVec 8}
    {start parity stop : BitValue} (parts : frameParts? (buffered ++ [last]) = some f)
    (values : (buffered ++ [last]).map BitInfo.value = wireBits v start parity stop) (idx : Word) :
    frameRecord f idx = wireFrame (runStart buffered last.start) last.finish idx v parity stop := by
  obtain ⟨entries, eight⟩ := frameParts?_some parts
  have first : runStart buffered last.start = f.start.start := by
    rw [← runStart_append buffered last last.finish, entries, runStart]
  have final : last = f.stop := by
    have split : buffered ++ [last] = f.start :: (f.data ++ [f.parity]) ++ [f.stop] := by simp [entries]
    exact List.singleton_inj.mp (List.append_inj' split rfl).2
  rw [entries, wireBits_eq, List.map_cons, List.map_append] at values
  obtain ⟨-, values⟩ := List.cons.inj values
  obtain ⟨data, flags⟩ := List.append_inj values (by simp [eight, byteBits])
  simp only [List.map_cons, List.map_nil, List.cons.injEq, and_true] at flags
  obtain ⟨parityValue, stopValue⟩ := flags
  rw [first, final]
  simp only [frameRecord, wireFrame, payloadByte_of_byteBits data, parityOk_of_byteBits data, stopOk,
    parityValue, stopValue]

/-! ### A frame -/

theorem saveBit_setInputs (b : BitInfo) (s : State) (l : List Ports) :
    saveBit b (s.setInputs l) = (saveBit b s).setInputs l := by
  rcases saveBit_cases b s with ⟨notTen, e⟩ | ⟨ten, f, parts, e⟩ <;> rw [e]
  · exact saveBit_save (s := s.setInputs l) b notTen
  · obtain ⟨f', parts', e'⟩ := saveBit_assemble (s := s.setInputs l) b ten
    cases parts'.symm.trans parts
    exact e'

/-- The slot in progress ends at `pos`; `start` and `d` are what its first interval left in the slot registers. -/
def State.endSlot (s : State) (pos start d : Word) : State := ((s.setSlot start d).setRef pos).setHalf false

/-- While `Locked` a nominal bit, of at most one Long, is saved with its span and its value (R142, R143). -/
theorem follows_bit {s : State} (h : AtSlotBoundary s) (sync : s.sync = .locked) (b : BitValue)
    (fits : s.ref.toNat + s.tLong.toNat < 2 ^ 64) :
    ∃ n start d, n ≤ s.tLong.toNat ∧
      Follows (traceBit b) s (saveBit ⟨s.ref, s.ahead n, b⟩ (s.endSlot (s.ahead n) start d)) := by
  cases b with
  | zero =>
    have kept : s.endSlot (s.ahead s.tLong.toNat) s.slotStart s.i1 = s.setRef (s.ahead s.tLong.toNat) := by
      rw [State.endSlot, State.setHalf, ← h.between.half]
      rfl
    refine ⟨s.tLong.toNat, s.slotStart, s.i1, Nat.le_refl _, ?_⟩
    rw [kept]
    refine follows_zero h fits (saveBit_ref _ _) fun l m short long => ?_
    rw [← saveBit_setInputs]
    rw [saveBit_ref] at m short long ⊢
    exact .lZero m sync h.between.half short long
  | one =>
    have shorter := h.constants.two_tShort_le
    refine ⟨2 * s.tShort.toNat, s.ref, s.tShort, shorter, ?_⟩
    refine follows_one h (by omega) (saveBit_ref _ _) fun l m short sum => ?_
    rw [← saveBit_setInputs]
    rw [saveBit_ref] at m short sum ⊢
    exact .lOne m sync rfl short sum

/-- What the bits that complete a byte do while `Locked`: its Frame is emitted and counted, and the block is ready
for the next byte (R157). -/
structure FrameTaken (sent : List BitValue) (v : BitVec 8) (parity stop : BitValue) (s t : State) : Prop where
  boundary : AtSlotBoundary t
  sync : t.sync = .locked
  bb : t.bb = []
  pktIdx : t.pktIdx = s.pktIdx + 1#64
  frames : frameStream t =
    frameStream s ++ [wireFrame (runStart s.bb s.ref) t.ref s.pktIdx v parity stop]
  ref : t.ref.toNat ≤ s.ref.toNat + sent.length * s.tLong.toNat

/-- The one Frame among the records of an assembled buffer is its last record (R157). -/
theorem frameStream_of_assembled {s t : State} {f : FrameParts} {idx : Word}
    (outputs : t.outputs = s.outputs ++ frameOutputs f idx) :
    frameStream t = frameStream s ++ [frameRecord f idx] := by
  rw [frameStream, outputs, frameOutputs, List.filterMap_append]
  rfl

/-- The bits still missing from a frame complete it, by induction on them: each but the last is only buffered. -/
theorem follows_frame {sent : List BitValue} {v : BitVec 8} {start parity stop : BitValue} {s : State}
    (h : AtSlotBoundary s) (sync : s.sync = .locked) (room : s.bb.length ≤ 10)
    (values : s.bb.map BitInfo.value ++ sent = wireBits v start parity stop)
    (fits : s.ref.toNat + sent.length * s.tLong.toNat < 2 ^ 64) :
    ∃ t, Follows (traceBits sent) s t ∧ FrameTaken sent v parity stop s t := by
  have eleven : s.bb.length + sent.length = 11 := by
    have := congrArg List.length values
    simpa [wireBits] using this
  induction sent generalizing s with
  | nil =>
    rw [List.length_nil] at eleven
    omega
  | cons b sent ih =>
    rw [List.length_cons] at eleven
    rw [List.length_cons, Nat.succ_mul] at fits
    obtain ⟨n, slot, d, span, bit⟩ := follows_bit h sync b (by omega)
    have finish : (s.ahead n).toNat = s.ref.toNat + n := State.ahead_toNat (by omega)
    have values' : (s.bb ++ [(⟨s.ref, s.ahead n, b⟩ : BitInfo)]).map BitInfo.value ++ sent =
        wireBits v start parity stop := by
      rw [List.map_append, List.append_assoc]
      exact values
    rcases saveBit_cases ⟨s.ref, s.ahead n, b⟩ (s.endSlot (s.ahead n) slot d) with
      ⟨notTen, saved⟩ | ⟨ten, f, parts, assembled⟩
    · have notTen : s.bb.length ≠ 10 := notTen
      rw [saved] at bit
      obtain ⟨t, bits, taken⟩ := ih (h.of_same bit.constants rfl rfl rfl) sync
        (by rw [List.length_append, List.length_singleton]; show s.bb.length + 1 ≤ 10; omega) values'
        (by show (s.ahead n).toNat + sent.length * s.tLong.toNat < _; omega)
        (by rw [List.length_append, List.length_singleton]; show s.bb.length + 1 + sent.length = 11; omega)
      refine ⟨t, (bit.seq bits).congr rfl, taken.boundary, taken.sync, taken.bb, taken.pktIdx, ?_, ?_⟩
      · rw [taken.frames, runStart_append]
        rfl
      · have reached : t.ref.toNat ≤ (s.ahead n).toNat + sent.length * s.tLong.toNat := taken.ref
        rw [List.length_cons, Nat.succ_mul]
        omega
    · have ten : s.bb.length = 10 := ten
      obtain rfl : sent = [] := List.eq_nil_of_length_eq_zero (by omega)
      rw [assembled] at bit
      rw [List.append_nil] at values'
      refine ⟨_, (bit.seq (.nil _)).congr rfl, h.of_same bit.constants rfl rfl rfl, sync, rfl, rfl, ?_, ?_⟩
      · rw [frameStream_of_assembled (s := s) rfl, frameRecord_of_wireBits parts values']
        rfl
      · show (s.ahead n).toNat ≤ _
        rw [List.length_singleton]
        omega

/-- Settles O56, for the presentations at hand. -/
theorem nominalFrame : Obligations.NominalFrame := by
  intro s v start parity stop sent rest constants between sync room values fits inputs
  obtain ⟨t, bits, taken⟩ := follows_frame ⟨constants, between⟩ sync room values fits
  obtain ⟨constants', between'⟩ := taken.boundary.setInputs rest
  exact ⟨t.setInputs rest, bits.of_inputs inputs, rfl, between', constants', taken.sync, taken.bb, taken.pktIdx,
    bits.env, taken.frames⟩

/-! ### A packet -/

/-- Frames of the bytes in order, numbered from `k`, with both flags good. -/
structure FramesOf (k : Nat) (vs : List (BitVec 8)) (frames : List Frame) : Prop where
  bytes : frames.map Frame.byte = vs
  indices : frames.map Frame.idx = (List.range' k vs.length).map (BitVec.ofNat 64)
  good : ∀ f ∈ frames, f.parityOk = true ∧ f.stopOk = true

/-- A frame with the expected parity and stop bits, before the frames of the later bytes. -/
theorem FramesOf.cons {k : Nat} {v : BitVec 8} {vs : List (BitVec 8)} {frames : List Frame}
    (h : FramesOf (k + 1) vs frames) (first finish : Word) :
    FramesOf k (v :: vs) (wireFrame first finish (BitVec.ofNat 64 k) v (oddParity v) .one :: frames) where
  bytes := by rw [List.map_cons, h.bytes, wireFrame]
  indices := by
    rw [List.map_cons, h.indices]
    rfl
  good := List.forall_mem_cons.mpr ⟨⟨decide_eq_true rfl, rfl⟩, h.good⟩

/-- What the bytes of a packet, from the `k`th on, do while `Locked`: a Frame a byte. -/
structure BytesTaken (k : Nat) (vs : List (BitVec 8)) (s t : State) (frames : List Frame) : Prop where
  boundary : AtSlotBoundary t
  sync : t.sync = .locked
  bb : t.bb = []
  pktIdx : t.pktIdx = BitVec.ofNat 64 (k + vs.length)
  stream : frameStream t = frameStream s ++ frames
  frames : FramesOf k vs frames

/-- The bytes of a packet, by induction on them: each is numbered by the count of those before it. -/
theorem follows_bytes (vs : List (BitVec 8)) {k : Nat} {s : State} (h : AtSlotBoundary s) (sync : s.sync = .locked)
    (bb : s.bb = []) (idx : s.pktIdx = BitVec.ofNat 64 k)
    (fits : s.ref.toNat + 11 * vs.length * s.tLong.toNat < 2 ^ 64) :
    ∃ t frames, Follows (expandAll (vs.map .byte)) s t ∧ BytesTaken k vs s t frames := by
  induction vs generalizing k s with
  | nil => exact ⟨s, [], (Follows.nil s).congr rfl, h, sync, bb, idx, (List.append_nil _).symm, rfl, rfl, nofun⟩
  | cons v vs ih =>
    rw [List.length_cons, Nat.mul_succ, Nat.add_mul] at fits
    obtain ⟨u, bits, taken⟩ := follows_frame (sent := wireBits v .zero (oddParity v) .one) h sync (by simp [bb])
      (by rw [bb]; rfl) (by show _ + 11 * _ < _; omega)
    have long : u.tLong = s.tLong := bits.constants.tLong
    have reached : u.ref.toNat ≤ s.ref.toNat + 11 * s.tLong.toNat := taken.ref
    have counted : u.pktIdx = BitVec.ofNat 64 (k + 1) := by
      rw [taken.pktIdx, idx, BitVec.ofNat_add]
    obtain ⟨t, frames, later, rest⟩ := ih taken.boundary taken.sync taken.bb counted (by rw [long]; omega)
    refine ⟨t, _ :: frames, .cons (x := .byte v) (bits.congr rfl) later, rest.boundary, rest.sync, rest.bb, ?_, ?_,
      rest.frames.cons (runStart s.bb s.ref) u.ref⟩
    · rw [rest.pktIdx, List.length_cons]
      congr 1
      omega
    · rw [rest.stream, taken.frames, idx, List.append_assoc, List.singleton_append]

/-- The locking Zero of a packet is the start bit of its first byte (R126). -/
theorem follows_firstByte {s : State} (h : AtSlotBoundary s) (sync : s.sync = .hunting) (empty : s.bb = [])
    (len : lengthOk s = true) (v : BitVec 8) (fits : s.ref.toNat + 11 * s.tLong.toNat < 2 ^ 64) :
    ∃ t finish, Follows (expand (.byte v)) s t ∧ AtSlotBoundary t ∧ t.sync = .locked ∧ t.bb = [] ∧
      t.pktIdx = 1#64 ∧ t.ref.toNat ≤ s.ref.toNat + 11 * s.tLong.toNat ∧
      frameStream t = frameStream s ++ [wireFrame s.ref finish 0#64 v (oddParity v) .one] := by
  have zero : Follows (traceBit .zero) s (lockedOnZero s) := follows_lock h sync empty len (by omega)
  have ref : (lockedOnZero s).ref.toNat = s.ref.toNat + s.tLong.toNat := State.ahead_toNat (by omega)
  have long : (lockedOnZero s).tLong = s.tLong := rfl
  obtain ⟨t, bits, taken⟩ := follows_frame (sent := byteBits v ++ [oddParity v, .one]) (start := .zero)
    (lockedOnZero_boundary h) rfl (by simp [lockedOnZero]) rfl (by show _ + 10 * _ < _; rw [ref, long]; omega)
  have reached : t.ref.toNat ≤ (lockedOnZero s).ref.toNat + 10 * s.tLong.toNat := taken.ref
  exact ⟨t, t.ref, (zero.seq bits).congr rfl, taken.boundary, taken.sync, taken.bb, taken.pktIdx, by omega,
    taken.frames⟩

/-- Settles O57: the preamble, the first byte with the locking Zero as its start bit, the bytes after it. -/
theorem nominalPacket : Obligations.NominalPacket := by
  intro s n v vs rest constants between sync pr bb atLeast atMost fits inputs
  have slower := Nat.mul_le_mul_left n constants.two_tShort_le
  rw [List.length_cons, Nat.mul_succ, ← Nat.add_assoc, Nat.add_mul, Nat.add_mul] at fits
  obtain ⟨u, ones, recorded⟩ := follows_ones n ⟨constants, between⟩ sync (by omega)
  have long : u.tLong = s.tLong := ones.constants.tLong
  obtain ⟨w, finish, first, boundary, locked, empty, counted, reached, stream⟩ :=
    follows_firstByte recorded.boundary recorded.sync (recorded.bb.trans bb)
      ((recorded.lengthOk_iff pr).mpr ⟨atLeast, atMost⟩) v (by rw [recorded.ref, long]; omega)
  have long' : w.tLong = s.tLong := first.constants.tLong.trans long
  rw [recorded.ref, long] at reached
  obtain ⟨t, frames, later, taken⟩ :=
    follows_bytes vs (k := 1) boundary locked empty counted (by rw [long']; omega)
  have trace : Follows (expandAll (.pre n :: (v :: vs).map .byte)) s t :=
    .cons (x := .pre n) ones (.cons first later)
  obtain ⟨bytes, indices, good⟩ := taken.frames.cons (v := v) (k := 0) u.ref finish
  obtain ⟨-, between'⟩ := taken.boundary.setInputs rest
  refine ⟨t.setInputs rest, _, trace.of_inputs inputs, rfl, between', taken.sync, taken.bb, ?_, ?_, bytes, ?_, good,
    ?_⟩
  · rw [List.length_cons, Nat.add_comm]
    exact taken.pktIdx
  · show frameStream t = _
    rw [taken.stream, stream, recorded.frames, List.append_assoc]
    rfl
  · rw [indices, List.range_eq_range']
  · rw [← recorded.ref_eq]
    rfl

end Sys2Proof.Machine
end

section
/-! PROOFS. Timing classifier: the boundary classes at two rates, what a Glitch and the edge after it do, and what
lists of them leave. -/

namespace Sys2Proof.Machine

/-! ### The constants and the windows of a given rate -/

/-- The constants of a supported rate are those that reset loads for it (R31, R37). -/
theorem ConstantsOk.same_afterReset {s : State} (h : ConstantsOk s) (start : Word) :
    SameConstants (State.afterReset s.fs start) s := by
  obtain ⟨-, long, short, errLong, errShort⟩ := constantsOk_afterReset (decide_eq_true h.supported) start
  exact ⟨rfl, BitVec.eq_of_toNat_eq (h.tLong.trans long.symm), BitVec.eq_of_toNat_eq (h.tShort.trans short.symm),
    BitVec.eq_of_toNat_eq (h.errLong.trans errLong.symm), BitVec.eq_of_toNat_eq (h.errShort.trans errShort.symm)⟩

theorem isShort_eq {s : State} {mid err : Word} (tShort : s.tShort = mid) (errShort : s.errShort = err) (d : Nat) :
    isShort s d = decide (mid.toNat - err.toNat ≤ d ∧ d ≤ mid.toNat + err.toNat) := by
  rw [isShort, tShort, errShort]

theorem isLong_eq {s : State} {mid err : Word} (tLong : s.tLong = mid) (errLong : s.errLong = err) (d : Nat) :
    isLong s d = decide (mid.toNat - err.toNat ≤ d ∧ d ≤ mid.toNat + err.toNat) := by
  rw [isLong, tLong, errLong]

/-- Settles O11: at each rate the constants are those of reset; the windows they bound are then written in numerals. -/
theorem boundaryClasses : Obligations.BoundaryClasses := by
  refine ⟨fun s h fs => ?_, fun s h fs => ?_⟩
  all_goals
    obtain ⟨-, long, short, errLong, errShort⟩ := h.same_afterReset 0#64
    rw [fs] at long short errLong errShort
  · refine ⟨short, errShort, long, errLong, ?_⟩
    simp only [classify, isShort_eq short errShort, isLong_eq long errLong]
    decide
  · have inShort (d : Nat) : isShort s d = true ↔ 6 ≤ d ∧ d ≤ 16 := by
      rw [isShort_eq short errShort]
      exact decide_eq_true_iff
    have inLong (d : Nat) : isLong s d = true ↔ 18 ≤ d ∧ d ≤ 28 := by
      rw [isLong_eq long errLong]
      exact decide_eq_true_iff
    refine ⟨short, errShort, long, errLong, ?_, fun d => ⟨(classify_short_iff s d).trans (inShort d), ?_⟩⟩
    · rw [classify_glitch_iff, inShort, inLong]
      omega
    · rw [classify_long_iff, ← Bool.not_eq_true, inShort, inLong]
      omega

/-- At a supported rate the Short window ends below the end of the Long window, so that nothing beyond the Long window
is in either (R106). -/
theorem ConstantsOk.not_window_beyond {s : State} (h : ConstantsOk s) {d : Nat}
    (beyond : s.tLong.toNat + s.errLong.toNat < d) : isShort s d = false ∧ isLong s d = false := by
  have short := h.tShort_eq
  have errShort := h.errShort_eq
  have errLong := h.errLong_eq
  rw [← Bool.not_eq_true, ← Bool.not_eq_true, isShort_iff, isLong_iff]
  omega

/-! ### A Glitch and the edge after it -/

/-- The interval of an event written as `pos = ref + d`, as a number (R76). -/
theorem dist_of_add {pos : Word} {s : State} {d : Nat} (h : pos.toNat = s.ref.toNat + d) : dist pos s = d := by
  rw [dist, interval_toNat (by omega), h, Nat.add_sub_cancel_left]

/-- A measured edge in neither window is a Glitch: it sets `gskip` and changes nothing else (R103). -/
theorem exec_edge_glitch {pos : Word} {s : State} {d : Nat} (m : Measuring s) (h : pos.toNat = s.ref.toNat + d)
    (short : isShort s d = false) (long : isLong s d = false) :
    exec (.edge pos) s = .next (s.setGskip true) := by
  rw [← dist_of_add h] at short long
  exact (EdgeCase.glitch ⟨m.run, m.gskip, by omega⟩ short long).exec_edge

/-- The edge after a Glitch is consumed, whatever its position (R104). -/
theorem exec_edge_skip {s : State} (run : s.run = .running) (gskip : s.gskip = true) (pos : Word) :
    exec (.edge pos) s = .next (s.setGskip false) := (EdgeCase.gskip run gskip).exec_edge

/-- Settles O22: the operation measures its edge, and a measured Glitch performs it. -/
theorem glitchResult : Obligations.GlitchResult := by
  intro s pos d h
  have glitch : exec (.eGlitch pos) s = .next (s.setGskip true) := by
    rw [exec_eGlitch, measured_of_le (by omega)]
  exact ⟨glitch, fun m short long => exec_edge_glitch m h short long⟩

/-- Settles O23: neither the operation nor its dispatch looks at the position. -/
theorem skipResult : Obligations.SkipResult := fun s pos =>
  ⟨exec_eGskip pos s, fun run gskip => exec_edge_skip run gskip pos⟩

/-! ### Edges delivered one after another -/

theorem deliver_cons {p : Word} {s t : State} (h : exec (.edge p) s = .next t) (rest : List Word) :
    deliver (p :: rest) s = deliver rest t := by
  rw [deliver, h]

theorem deliver_append {ps : List Word} {s t : State} (h : deliver ps s = .next t) (rest : List Word) :
    deliver (ps ++ rest) s = deliver rest t := by
  induction ps generalizing s with
  | nil =>
    cases h
    rfl
  | cons p ps ih =>
    rw [deliver] at h
    split at h
    · next u taken =>
      rw [List.cons_append, deliver_cons taken]
      exact ih h
    · cases h
    · cases h

theorem deliver_singleton (p : Word) (s : State) : deliver [p] s = exec (.edge p) s := by
  rw [deliver]
  cases exec (.edge p) s <;> rfl

/-- A Glitch and the edge after it leave the state as it was: `gskip` was 0, is set and cleared (R105). -/
theorem deliver_bounce {s : State} (m : Measuring s) {p : Word} {d : Nat} (h : p.toNat = s.ref.toNat + d)
    (glitch : classify s d = .glitch) (q : Word) : deliver [p, q] s = .next s := by
  obtain ⟨-, -, -, -, glitch_iff⟩ := windowPredicates s d
  obtain ⟨short, long⟩ := glitch_iff.mp glitch
  have restored : (s.setGskip true).setGskip false = s := by
    rw [State.setGskip, State.setGskip, ← m.gskip]
  rw [deliver_cons (exec_edge_glitch m h short long), deliver_singleton,
    exec_edge_skip (s := s.setGskip true) m.run rfl, restored]

/-- Settles O24, by induction on the bounces: each is measured from the `ref` that the ones before it left alone. -/
theorem glitchTransparency : Obligations.GlitchTransparency := by
  intro s bounces pos m glitches
  have absorbed : deliver (bounces.flatMap fun b => [b.1, b.2]) s = .next s := by
    induction bounces with
    | nil => rfl
    | cons b bounces ih =>
      obtain ⟨⟨d, h, glitch⟩, glitches⟩ := List.forall_mem_cons.mp glitches
      rw [List.flatMap_cons, deliver_append (deliver_bounce m h glitch b.2)]
      exact ih glitches
  exact ⟨absorbed, (deliver_append absorbed [pos]).trans (deliver_singleton pos s)⟩

/-- An edge beyond the Long window is a Glitch or is skipped: either way it toggles `gskip` (R106). -/
theorem exec_edge_beyond {s : State} (run : s.run = .running) (h : ConstantsOk s) {p : Word}
    (beyond : s.ref.toNat + s.tLong.toNat + s.errLong.toNat < p.toNat) :
    exec (.edge p) s = .next (s.setGskip !s.gskip) := by
  cases gskip : s.gskip with
  | true => exact exec_edge_skip run gskip p
  | false =>
    have pos : p.toNat = s.ref.toNat + (p.toNat - s.ref.toNat) := by omega
    obtain ⟨short, long⟩ := h.not_window_beyond (d := p.toNat - s.ref.toNat) (by omega)
    exact exec_edge_glitch ⟨run, gskip⟩ pos short long

/-- One toggle more changes the parity of the count. -/
theorem xor_not_odd (g : Bool) (n : Nat) :
    xor (!g) (decide (n % 2 = 1)) = xor g (decide ((n + 1) % 2 = 1)) := by
  have parity : decide ((n + 1) % 2 = 1) = !decide (n % 2 = 1) := by
    rw [← decide_not]
    exact decide_eq_decide.mpr (by omega)
  rw [parity, Bool.not_xor, Bool.xor_not]

/-- Settles O25, by induction on the edges: the toggle keeps `ref` and the constants, so the rest is still beyond. -/
theorem overlongIntervalStuck : Obligations.OverlongIntervalStuck := by
  intro s ps run h beyond
  induction ps generalizing s with
  | nil =>
    show Host.Outcome.next s = .next (s.setGskip (xor s.gskip false))
    rw [Bool.xor_false]
    rfl
  | cons p ps ih =>
    obtain ⟨first, later⟩ := List.forall_mem_cons.mp beyond
    have kept : ConstantsOk (s.setGskip !s.gskip) := h.of_same ⟨rfl, rfl, rfl, rfl, rfl⟩
    have tail := ih (s.setGskip !s.gskip) run kept later
    rw [deliver_cons (exec_edge_beyond run h first), tail, State.setGskip_gskip, xor_not_odd]
    rfl

end Sys2Proof.Machine
end

section
/-! PROOFS. Synchronizer: the effect of each hunting row, as its operation and as the `EDGE` that performs it, and the
conditions under which `Locked` is entered. -/

namespace Sys2Proof.Machine

/-! ### The conditions of the rows -/

theorem Measuring.measures {s : State} (m : Measuring s) {pos : Word} {d : Nat} (h : pos.toNat = s.ref.toNat + d) :
    Measures pos s := ⟨m.run, m.gskip, by omega⟩

/-- `length_ok` with its bounds written out (R125). -/
theorem lengthOk_iff (s : State) : lengthOk s = true ↔ 11 ≤ s.pr.length / 2 ∧ s.pr.length / 2 ≤ 25 :=
  decide_eq_true_iff

theorem lengthOk_false_iff (s : State) : lengthOk s = false ↔ ¬(11 ≤ s.pr.length / 2 ∧ s.pr.length / 2 ≤ 25) :=
  decide_eq_false_iff_not

/-- The second interval of a slot does not complete a One: it is not Short, or the sum is not Long. -/
theorem not_one_iff (s : State) (d : Nat) : ¬(isShort s d = true ∧ isLong s (slotSum s d) = true) ↔
    isShort s d = false ∨ isLong s (slotSum s d) = false := by
  rw [not_and_or, Bool.not_eq_true, Bool.not_eq_true]

/-! ### The effects of the rows -/

/-- With nothing buffered, lock path 2 leaves exactly the second interval in the buffer (R124). -/
theorem lockOnSecond_of_empty {s : State} (empty : s.bb = []) (pos : Word) :
    lockOnSecond pos s = { s with
      outputs := s.outputs ++ [.marker ⟨.errSkipped, s.slotStart⟩], ref := pos, half := false,
      sync := .locked, pktIdx := 0#64, bb := [⟨s.ref, pos, .zero⟩] } :=
  lock_of_empty (s := skipShort pos s) empty _

/-! ### Opening a slot and recording a One -/

/-- Settles O26: both operations open the slot, and a first Short performs one of them. -/
theorem firstShortResult : Obligations.FirstShortResult := by
  intro s pos d h t
  have order : s.ref.toNat ≤ pos.toNat := by omega
  have effect : startSlot pos (interval pos s.ref) s = t := by rw [interval_of_add h, startSlot_eq]
  refine ⟨?_, ?_, fun m half short => ?_⟩
  · rw [exec_hShort1, measured_of_le order, effect]
  · rw [exec_lShort1, measured_of_le order, effect]
  · rw [← dist_of_add h] at short
    rw [← effect]
    exact (EdgeCase.short1 (m.measures h) half short).exec_edge

/-- Settles O27: the row writes its registers one by one. -/
theorem preambleOneResult : Obligations.PreambleOneResult := by
  intro s pos d h t
  refine ⟨?_, fun m sync half short sum => ?_⟩
  · rw [exec_hOne, measured_of_le (by omega)]
    rfl
  · rw [← dist_of_add h] at short sum
    exact (EdgeCase.hOne (m.measures h) sync half short sum).exec_edge

/-! ### A Long that locks or is rejected -/

/-- Settles O28: with nothing buffered `lock` completes no frame. -/
theorem lockResult : Obligations.LockResult := by
  intro s pos d h empty t
  have effect : lock ⟨s.ref, pos, .zero⟩ (s.setRef pos) = t := lock_of_empty (s := s.setRef pos) empty _
  refine ⟨?_, fun m sync half short long atLeast atMost => ?_⟩
  · rw [exec_hLock, measured_of_le (by omega), effect]
  · rw [← dist_of_add h] at short long
    rw [← effect]
    have len := (lengthOk_iff s).mpr ⟨atLeast, atMost⟩
    exact (EdgeCase.hLock (m.measures h) sync half short long len).exec_edge

/-- Settles O29: the violation is raised after `ref` is written, at the old `ref`. -/
theorem lengthErrorResult : Obligations.LengthErrorResult := by
  intro s pos d h t
  have effect : raise .directLength s.ref (s.setRef pos) = t := rejectDirect_rehunt pos s
  refine ⟨?_, fun m sync half short long outside => ?_⟩
  · rw [exec_hLenerr, measured_of_le (by omega), effect]
  · rw [← dist_of_add h] at short long
    rw [← effect]
    have len := (lengthOk_false_iff s).mpr outside
    exact (EdgeCase.hLenerr (m.measures h) sync half short long len).exec_edge

/-- Settles O30: the two rows of the mnemonic share one effect, and one of the two conditions holds. -/
theorem secondPulseLockResult : Obligations.SecondPulseLockResult := by
  intro s pos d h empty t
  have order : s.ref.toNat ≤ pos.toNat := by omega
  have effect : lockOnSecond pos s = t := lockOnSecond_of_empty empty pos
  refine ⟨?_, ?_, fun m sync half long notOne atLeast atMost => ?_⟩
  · rw [exec_hLock2, measured_of_le order, effect]
  · rw [exec_hLock2Shared, measured_of_le order, effect]
  · rw [← dist_of_add h] at long notOne
    rw [← effect]
    have len := (lengthOk_iff s).mpr ⟨atLeast, atMost⟩
    exact (EdgeCase.hLock2 (m.measures h) sync half long ((not_one_iff s _).mp notOne) len).exec_edge

/-- Settles O31: as the second lock path, but the violation is raised after the skipped marker. -/
theorem secondPulseLengthErrorResult : Obligations.SecondPulseLengthErrorResult := by
  intro s pos d h t
  have order : s.ref.toNat ≤ pos.toNat := by omega
  have effect : rejectOnSecond pos s = t := by
    rw [rejectOnSecond_eq, List.append_assoc]
    rfl
  refine ⟨?_, ?_, fun m sync half long notOne outside => ?_⟩
  · rw [exec_hLenerr2, measured_of_le order, effect]
  · rw [exec_hLenerr2Shared, measured_of_le order, effect]
  · rw [← dist_of_add h] at long notOne
    rw [← effect]
    have len := (lengthOk_false_iff s).mpr outside
    exact (EdgeCase.hLenerr2 (m.measures h) sync half long ((not_one_iff s _).mp notOne) len).exec_edge

/-! ### A slot that fails -/

/-- Settles O32: the three causes are of one class and so have one effect; each clause is the condition of its row. -/
theorem timingViolationResult : Obligations.TimingViolationResult := by
  intro s pos d h t
  have order : s.ref.toNat ≤ pos.toNat := by omega
  have effect {c : Cause} (timing : c.violation = .timing) : failSlot c pos s = t := failSlot_timing timing pos s
  refine ⟨?_, ?_, ?_, fun m half => ?_⟩
  · rw [exec_hTerr, measured_of_le order, effect rfl]
  · rw [exec_lTerrLong, measured_of_le order, effect rfl]
  · rw [exec_lTerrSum, measured_of_le order, effect rfl]
  have measures : Measures pos s := m.measures h
  rw [← dist_of_add h]
  refine ⟨fun sync short long sum => ?_, fun sync short long => ?_, fun sync short sum => ?_⟩
  · rw [← effect (c := .huntingSum) rfl]
    exact (EdgeCase.hTerr measures sync half short long sum).exec_edge
  · rw [← effect (c := .lockedLong) rfl]
    exact (EdgeCase.lTerr measures sync half _ (.inl rfl) (.inr long) (.inl short)).exec_edge
  · rw [← effect (c := .lockedSum) rfl]
    exact (EdgeCase.lTerr measures sync half _ (.inr rfl) (.inl short) (.inr sum)).exec_edge

/-! ### Entering `Locked` -/

/-- What holds when an edge at `pos` locks: the condition of the lock rows, and what `lock` leaves (R123 to R126). -/
structure EntersLocked (pos : Word) (s t : State) : Prop where
  order : s.ref.toNat ≤ pos.toNat
  len : lengthOk s = true
  long : isLong s (dist pos s) = true
  notOne : ¬(s.half = true ∧ isShort s (dist pos s) = true ∧ isLong s (slotSum s (dist pos s)) = true)
  ref : t.ref = pos
  pr : t.pr = s.pr
  pktIdx : t.pktIdx = 0#64
  bb : t.bb = [⟨s.ref, pos, .zero⟩]

/-- Only the two lock paths lead from Hunting to Locked (R131). -/
theorem EdgeCase.entersLocked {pos : Word} {s t : State} (row : EdgeCase pos s t) (empty : s.bb = [])
    (hunting : s.sync = .hunting) (locked : t.sync = .locked) : EntersLocked pos s t := by
  cases row with
  | halted | gskip | glitch | short1 | hOne => exact nomatch hunting.symm.trans locked
  | lZero m sync | lOne m sync | lTerr m sync => exact nomatch hunting.symm.trans sync
  | hLenerr =>
    rw [rejectDirect_rehunt] at locked
    cases locked
  | hLenerr2 =>
    rw [rejectOnSecond_rehunt] at locked
    cases locked
  | hTerr =>
    rw [failSlot_rehunt rfl] at locked
    cases locked
  | hLock m sync half short long len =>
    rw [lock_of_empty (s := s.setRef pos) empty]
    exact ⟨m.order, len, long, fun ⟨second, _⟩ => Bool.noConfusion (second.symm.trans half), rfl, rfl, rfl, rfl⟩
  | hLock2 m sync half long notOne len =>
    rw [lockOnSecond_of_empty empty]
    exact ⟨m.order, len, long, fun ⟨_, one⟩ => (not_one_iff s _).mpr notOne one, rfl, rfl, rfl, rfl⟩

theorem endRun_sync {c : Cause} (hc : c = .sourceExhausted ∨ c = .cancelled) (s : State) :
    (endRun c s).sync = s.sync := by
  rw [endRun_eq s c hc]
  split <;> rfl

/-- Settles O45: a step that enters `Locked` performs an edge, and that edge a lock path. -/
theorem lockOnlyAfterPreamble : Obligations.LockOnlyAfterPreamble := by
  intro s t hv h hunting locked
  cases step_inv h with
  | none | idle => exact nomatch hunting.symm.trans locked
  | reset => cases locked
  | halt p rest inputs rst c cause =>
    exact nomatch hunting.symm.trans ((endRun_sync cause (s.setInputs rest)).symm.trans locked)
  | edge p rest t inputs rst asks row =>
    obtain ⟨order, len, long, notOne, ref, pr, pktIdx, bb⟩ :=
      row.entersLocked (s := s.setInputs rest) (hv.huntingEmpty hunting) hunting locked
    obtain ⟨atLeast, atMost⟩ := (lengthOk_iff s).mp len
    have distance : dist (evPos p.ev) (s.setInputs rest) = t.ref.toNat - s.ref.toNat := by
      rw [ref]
      exact interval_toNat order
    rw [distance] at long notOne
    rw [← ref] at order bb
    exact ⟨atLeast, atMost, pr, pktIdx, order, long, notOne, bb⟩

end Sys2Proof.Machine
end

section
/-! PROOFS. Bit decode: what the 1st to 10th and the 11th bit of a frame do, as the operation and as the `EDGE` that
performs it, and the one way out of `Locked`. -/

namespace Sys2Proof.Machine

/-! ### The bit of a slot is handed to `save_bit` -/

/-- A direct Long while `Locked` hands a Zero from the old `ref` to `save_bit` (R142). -/
theorem exec_zero_saved {s t : State} {pos : Word} {d : Nat} (h : pos.toNat = s.ref.toNat + d)
    (saved : saveBit ⟨s.ref, pos, .zero⟩ (s.setRef pos) = t) :
    exec (.lZero pos) s = .next t ∧
    (Measuring s → s.sync = .locked → s.half = false → isShort s d = false → isLong s d = true →
      exec (.edge pos) s = .next t) := by
  subst saved
  refine ⟨?_, fun m sync half short long => ?_⟩
  · rw [exec_lZero, measured_of_le (by omega)]
  · rw [← dist_of_add h] at short long
    exact (EdgeCase.lZero (m.measures h) sync half short long).exec_edge

/-- Two Shorts summing to Long while `Locked` hand a One from `slot_start` to `save_bit` (R143). -/
theorem exec_one_saved {s t : State} {pos : Word} {d : Nat} (h : pos.toNat = s.ref.toNat + d)
    (saved : saveBit ⟨s.slotStart, pos, .one⟩ ((s.setRef pos).setHalf false) = t) :
    exec (.lOne pos) s = .next t ∧
    (Measuring s → s.sync = .locked → s.half = true → isShort s d = true → isLong s (s.i1.toNat + d) = true →
      exec (.edge pos) s = .next t) := by
  subst saved
  refine ⟨?_, fun m sync half short sum => ?_⟩
  · rw [exec_lOne, measured_of_le (by omega)]
  · rw [← dist_of_add h] at short sum
    exact (EdgeCase.lOne (m.measures h) sync half short sum).exec_edge

/-! ### The 1st to 10th bit -/

/-- Settles O33: unless ten entries are buffered, `save_bit` is the append. -/
theorem bitSavedResult : Obligations.BitSavedResult := by
  intro s pos d h notTen zero one
  obtain ⟨lZero, edgeZero⟩ := exec_zero_saved (t := zero) h (saveBit_save (s := s.setRef pos) _ notTen)
  obtain ⟨lOne, edgeOne⟩ :=
    exec_one_saved (t := one) h (saveBit_save (s := (s.setRef pos).setHalf false) _ notTen)
  exact ⟨lZero, lOne, edgeZero, edgeOne⟩

/-! ### The 11th bit -/

/-- Entries written out by their roles have these roles (R152): the converse of `frameParts?_some`. -/
theorem frameParts?_of_roles (f : FrameParts) (eight : f.data.length = 8) :
    frameParts? (f.start :: f.data ++ [f.parity] ++ [f.stop]) = some f := by
  obtain ⟨start, data, parity, stop⟩ := f
  match data, eight with
  | [_, _, _, _, _, _, _, _], _ => rfl

/-- `save_bit` on the stop bit, with the ten entries before it written out by their roles (R157). -/
theorem saveBit_completes {s : State} {f : FrameParts} (eight : f.data.length = 8)
    (ten : s.bb = f.start :: f.data ++ [f.parity]) :
    saveBit f.stop s =
      { s with outputs := s.outputs ++ frameOutputs f s.pktIdx, pktIdx := s.pktIdx + 1#64, bb := [] } := by
  obtain ⟨g, parts, assembled⟩ := saveBit_assemble f.stop (s := s) (by simp [ten, eight])
  rw [ten, frameParts?_of_roles f eight] at parts
  cases parts
  exact assembled

/-- The four records of a frame, with the outcome of each check written out (R152 to R157). -/
theorem frameOutputs_eq (f : FrameParts) (idx : Word) :
    frameOutputs f idx =
      [.marker ⟨.start, f.start.start⟩,
       .marker ⟨if parityOk f.data f.parity then .parityOk else .errParity, f.parity.start⟩,
       .marker ⟨if f.stop.value = .one then .stopOk else .errStop, f.stop.start⟩,
       .frame { first := f.start.start, last := f.stop.finish - 1#64, idx := idx, byte := payloadByte f.data,
                parityOk := parityOk f.data f.parity, stopOk := decide (f.stop.value = .one) }] := by
  simp only [frameOutputs, parityKind, stopKind, stopOk, frameRecord, decide_eq_true_eq]

/-- Settles O34: the eleven entries have the roles of the statement, and only the One writes `half`. -/
theorem frameCompletedResult : Obligations.FrameCompletedResult := by
  intro s pos d start parity data h eight ten done
  have zero : saveBit ⟨s.ref, pos, .zero⟩ (s.setRef pos) = done ⟨s.ref, pos, .zero⟩ := by
    rw [saveBit_completes (s := s.setRef pos) (f := ⟨start, data, parity, ⟨s.ref, pos, .zero⟩⟩) eight ten,
      frameOutputs_eq]
    rfl
  have one : saveBit ⟨s.slotStart, pos, .one⟩ ((s.setRef pos).setHalf false) = done ⟨s.slotStart, pos, .one⟩ := by
    rw [saveBit_completes (s := (s.setRef pos).setHalf false)
      (f := ⟨start, data, parity, ⟨s.slotStart, pos, .one⟩⟩) eight ten, frameOutputs_eq]
    rfl
  obtain ⟨lZero, edgeZero⟩ := exec_zero_saved h zero
  obtain ⟨lOne, edgeOne⟩ := exec_one_saved h one
  exact ⟨lZero, lOne, edgeZero, edgeOne⟩

/-! ### Leaving `Locked` -/

@[simp] theorem saveBit_sync (b : BitInfo) (s : State) : (saveBit b s).sync = s.sync := by
  rw [saveBit_frame]

/-- Only a failed slot leads from Locked to Hunting, and it starts the hunt again with its marker (R145, R146). -/
theorem EdgeCase.leavesLocked {pos : Word} {s t : State} (row : EdgeCase pos s t) (locked : s.sync = .locked)
    (hunting : t.sync = .hunting) :
    s.run = .running ∧ s.half = true ∧ t = rehunt pos (s.outputs ++ [.marker ⟨.errTiming, s.slotStart⟩]) s := by
  cases row with
  | halted | gskip | glitch | short1 => exact nomatch hunting.symm.trans locked
  | hLock m sync | hLenerr m sync | hOne m sync | hLock2 m sync | hLenerr2 m sync | hTerr m sync =>
    exact nomatch sync.symm.trans locked
  | lZero | lOne =>
    rw [saveBit_sync] at hunting
    exact nomatch hunting.symm.trans locked
  | lTerr m sync half c cause =>
    exact ⟨m.run, half, failSlot_rehunt (by rcases cause with rfl | rfl <;> rfl) pos s⟩

/-- Settles O46: without a reset, a step that leaves `Locked` performs an edge, and that edge fails its slot. -/
theorem lockedLeftOnlyByViolation : Obligations.LockedLeftOnlyByViolation := by
  intro s t h hn locked hunting
  cases step_inv h with
  | none | idle => exact nomatch hunting.symm.trans locked
  | reset p rest inputs rst => exact nomatch rst.symm.trans (rst_of_noReset hn inputs)
  | halt p rest inputs rst c cause =>
    exact nomatch hunting.symm.trans ((endRun_sync cause (s.setInputs rest)).trans locked)
  | edge p rest t inputs rst asks row =>
    obtain ⟨run, half, rfl⟩ := row.leavesLocked (s := s.setInputs rest) locked hunting
    exact ⟨run, half, rfl, rfl, rfl, rfl, rfl⟩

end Sys2Proof.Machine
end

section
/-! PROOFS. Frame assembler: the two operations, the payload and parity of the data bits, what the parity and stop bits
decide, and when a Frame is emitted. -/

namespace Sys2Proof.Machine

/-! ### The two operations -/

/-- `FA_ASSEMBLE` with the eleven entries written out by their roles (R157). -/
theorem exec_faAssemble_of_roles {s : State} {f : FrameParts} (eight : f.data.length = 8)
    (eleven : s.bb = f.start :: f.data ++ [f.parity, f.stop]) :
    exec .faAssemble s =
      .next { s with outputs := s.outputs ++ frameOutputs f s.pktIdx, pktIdx := s.pktIdx + 1#64, bb := [] } := by
  have parts : frameParts? s.bb = some f := by
    rw [eleven, ← frameParts?_of_roles f eight]
    simp
  rw [exec_faAssemble, parts]
  exact congrArg Host.Outcome.next (assemble_eq f s)

/-- Settles O35: the eleven entries have the roles of the statement. -/
theorem assemblerOperations : Obligations.AssemblerOperations := by
  refine fun s => ⟨exec_faSave s, fun start parity stop data eight eleven => ?_⟩
  rw [exec_faAssemble_of_roles (f := ⟨start, data, parity, stop⟩) eight eleven, frameOutputs_eq]

/-! ### The payload and the parity -/

/-- Settles O38: bit `i` of the OR of the shifted bits, started at index 0. -/
theorem payloadBits : Obligations.PayloadBits := by
  intro data eight i h
  rw [payloadByte, payloadFrom_bit data 0 (by omega)]
  simp [h]

/-- Eight data bits are the bits on the wire of their payload (R153). -/
theorem values_eq_byteBits {data : List BitInfo} (eight : data.length = 8) :
    data.map BitInfo.value = byteBits (payloadByte data) := by
  apply List.ext_getElem
  · simp [byteBits, eight]
  · intro i h _
    have inData : i < data.length := by simpa using h
    have bit := payloadBits data eight i inData
    simp only [byteBits, List.getElem_map, List.getElem_range, bit]
    cases data[i].value <;> rfl

/-- Settles O39: the data bits are the bits of the payload, so their Ones are its ones; the rest is arithmetic. -/
theorem parityRule : Obligations.ParityRule := by
  intro data parity eight
  have count : ones data = popcount (payloadByte data) := ones_of_byteBits (values_eq_byteBits eight)
  have expected : expectedParity data = 1 - popcount (payloadByte data) % 2 := by rw [expectedParity, count]
  refine ⟨count, expected, ?_⟩
  rw [parityOk, decide_eq_true_iff, expected]
  cases parity.value <;> simp only [bitNat] <;> omega

/-! ### What the parity and stop bits decide -/

/-- The same entries with other values in the parity and the stop entry. -/
def FrameParts.withFlags (f : FrameParts) (a b : BitValue) : FrameParts :=
  { f with parity := { f.parity with value := a }, stop := { f.stop with value := b } }

/-- The four records of a frame, with the outcomes of the two checks apart from the entries (R155 to R157). -/
def flaggedOutputs (f : FrameParts) (idx : Word) (ok stopped : Bool) : List Output :=
  [.marker ⟨.start, f.start.start⟩, .marker ⟨if ok then .parityOk else .errParity, f.parity.start⟩,
    .marker ⟨if stopped then .stopOk else .errStop, f.stop.start⟩,
    .frame { frameRecord f idx with parityOk := ok, stopOk := stopped }]

/-- The values of the parity and stop bits enter the records through the two checks only (R158). -/
theorem frameOutputs_withFlags (f : FrameParts) (a b : BitValue) (idx : Word) :
    frameOutputs (f.withFlags a b) idx = flaggedOutputs f idx
      (parityOk f.data { f.parity with value := a }) (stopOk { f.stop with value := b }) := rfl

/-- Nine entries are a start bit and eight data bits, to be followed by a parity and a stop bit (R152). -/
theorem exists_frameParts {bits : List BitInfo} (nine : bits.length = 9) (p x : BitInfo) :
    ∃ f : FrameParts, bits = f.start :: f.data ∧ f.parity = p ∧ f.stop = x ∧ f.data.length = 8 := by
  match bits, nine with
  | start :: data, nine => exact ⟨⟨start, data, p, x⟩, rfl, rfl, rfl, Nat.succ.inj nine⟩

/-- `t` and `u` are the answers to one edge from `s`, `u` with another value in the parity entry `p`: the same after a
violation, and after a frame but for the parity flag and the kind of the parity marker (R158). -/
def SameButParity (s : State) (p : BitInfo) (t u : State) : Prop :=
  (t.sync = .hunting → u = t) ∧
  (t.sync = .locked → t.pktIdx = s.pktIdx + 1#64 ∧
    ∃ (start stop : Marker) (f : Frame) (ok : Bool),
      t.outputs = s.outputs ++ [.marker start,
        .marker ⟨if f.parityOk then .parityOk else .errParity, p.start⟩, .marker stop, .frame f] ∧
      u = { t with outputs := s.outputs ++ [.marker start,
        .marker ⟨if ok then .parityOk else .errParity, p.start⟩, .marker stop, .frame { f with parityOk := ok }] })

/-- The bit `b` that completes a frame, saved with either value in the parity entry. -/
theorem sameButParity_saveBit {s u : State} {bits : List BitInfo} (nine : bits.length = 9) (sync : u.sync = .locked)
    (outputs : u.outputs = s.outputs) (pktIdx : u.pktIdx = s.pktIdx) (p b : BitInfo) (a : BitValue) :
    SameButParity s p (saveBit b (u.setBb (bits ++ [p]))) (saveBit b (u.setBb (bits ++ [{ p with value := a }]))) := by
  obtain ⟨f, rfl, rfl, rfl, eight⟩ := exists_frameParts nine p b
  have saved : saveBit f.stop (u.setBb (f.start :: f.data ++ [f.parity])) = _ := saveBit_completes eight rfl
  have saved' : saveBit f.stop (u.setBb (f.start :: f.data ++ [{ f.parity with value := a }])) = _ :=
    saveBit_completes (f := f.withFlags a f.stop.value) eight rfl
  rw [saved, saved', frameOutputs_withFlags]
  refine ⟨fun hunting => (nomatch hunting.symm.trans sync), fun _ => ⟨congrArg (· + 1#64) pktIdx, ?_⟩⟩
  rw [← outputs]
  exact ⟨_, _, frameRecord f u.pktIdx, _, rfl, rfl⟩

/-- A failed slot discards the buffer, whatever it holds (R145, R207). -/
theorem sameButParity_failSlot {c : Cause} (timing : c.violation = .timing) (pos : Word) (s : State)
    (l l' : List BitInfo) (p : BitInfo) :
    SameButParity s p (failSlot c pos (s.setBb l)) (failSlot c pos (s.setBb l')) := by
  rw [failSlot_rehunt timing, failSlot_rehunt timing]
  exact ⟨fun _ => rfl, fun locked => nomatch locked⟩

/-- A row that empties a buffer of ten entries while `Locked` saves the bit that completes the frame or fails the slot;
its condition does not look at the buffer, so either value in the parity entry performs it. -/
theorem EdgeCase.otherParity {pos : Word} {s t : State} {bits : List BitInfo} {p : BitInfo}
    (row : EdgeCase pos (s.setBb (bits ++ [p])) t) (locked : s.sync = .locked) (nine : bits.length = 9)
    (emptied : t.bb = []) (a : BitValue) :
    ∃ u, exec (.edge pos) (s.setBb (bits ++ [{ p with value := a }])) = .next u ∧ SameButParity s p t u := by
  have measures (m : Measures pos (s.setBb (bits ++ [p]))) :
      Measures pos (s.setBb (bits ++ [{ p with value := a }])) := ⟨m.run, m.gskip, m.order⟩
  have hunts {P : Prop} (sync : s.sync = .hunting) : P := nomatch sync.symm.trans locked
  cases row with
  | halted | gskip | glitch | short1 => exact absurd emptied (List.concat_ne_nil p bits)
  | hLock m sync | hLenerr m sync | hOne m sync | hLock2 m sync | hLenerr2 m sync | hTerr m sync => exact hunts sync
  | lZero m sync half short long =>
    exact ⟨_, (EdgeCase.lZero (measures m) sync half short long).exec_edge,
      sameButParity_saveBit (u := s.setRef pos) nine locked rfl rfl p _ a⟩
  | lOne m sync half short sum =>
    exact ⟨_, (EdgeCase.lOne (measures m) sync half short sum).exec_edge,
      sameButParity_saveBit (u := (s.setRef pos).setHalf false) nine locked rfl rfl p _ a⟩
  | lTerr m sync half c cause window notOne =>
    exact ⟨_, (EdgeCase.lTerr (measures m) sync half c cause window notOne).exec_edge,
      sameButParity_failSlot (by rcases cause with rfl | rfl <;> rfl) pos s _ _ p⟩

/-- Settles O40: the edge by its row, `FA_ASSEMBLE` by the roles of the eleven entries. -/
theorem mismatchChangesNoState : Obligations.MismatchChangesNoState := by
  refine ⟨fun s t pos bits p a locked nine h emptied =>
    (edge_cases h).otherParity (s := s) locked nine emptied a, fun s bits p x a b nine => ?_⟩
  obtain ⟨f, rfl, rfl, rfl, eight⟩ := exists_frameParts nine p x
  have assembled := exec_faAssemble_of_roles
    (s := s.setBb (f.start :: f.data ++ [f.parity, f.stop])) eight rfl
  have assembled' := exec_faAssemble_of_roles (f := f.withFlags a b)
    (s := s.setBb (f.start :: f.data ++ [{ f.parity with value := a }, { f.stop with value := b }])) eight rfl
  rw [frameOutputs_withFlags] at assembled'
  exact ⟨_, _, frameRecord f s.pktIdx, _, _, assembled, rfl, assembled'⟩

/-! ### When a Frame is emitted -/

theorem newOutputs_eq {s t : State} {added : List Output} (outputs : t.outputs = s.outputs ++ added) :
    newOutputs s t = added := by
  rw [newOutputs, outputs, List.drop_left]

theorem frame_not_mem_markers {s t : State} (ms : List Marker) (outputs : t.outputs = s.outputs ++ ms.map .marker)
    (f : Frame) : .frame f ∉ newOutputs s t := by
  rw [newOutputs_eq outputs]
  simp

theorem frame_not_mem_none {s t : State} (outputs : t.outputs = s.outputs) (f : Frame) : .frame f ∉ newOutputs s t :=
  frame_not_mem_markers [] (outputs.trans (List.append_nil _).symm) f

theorem frame_not_mem_marker {s t : State} {m : Marker} (outputs : t.outputs = s.outputs ++ [.marker m]) (f : Frame) :
    .frame f ∉ newOutputs s t := frame_not_mem_markers [m] outputs f

/-- The one Frame among the records of an assembled buffer (R157). -/
theorem frame_mem_frameOutputs {g : FrameParts} {idx : Word} {f : Frame} (h : .frame f ∈ frameOutputs g idx) :
    f = frameRecord g idx := by
  simpa [frameOutputs] using h

/-- A run of bits does not begin after its end (R54). -/
theorem runStart_le_of_tiles {l : List BitInfo} {e : Word} (run : tiles l e = true) :
    (runStart l e).toNat ≤ e.toNat := by
  induction l with
  | nil => exact Nat.le_refl _
  | cons b rest ih =>
    simp only [tiles, Bool.and_eq_true, decide_eq_true_eq] at run
    obtain ⟨⟨span, abuts⟩, tail⟩ := run
    have restBegins := ih tail
    rw [← abuts] at restBegins
    exact Nat.le_trans (Nat.le_of_lt span) restBegins

/-- From `s` to `t` the Frame `f` was emitted: by the bit that follows ten buffered ones, and with their span (R157,
R162). -/
def EmitsFrame (s t : State) (f : Frame) : Prop :=
  s.sync = .locked ∧ t.sync = .locked ∧ s.bb.length = 10 ∧ t.bb = [] ∧
  (∀ b, s.bb.head? = some b → f.first = b.start) ∧ f.first.toNat ≤ f.last.toNat ∧
  f.last.toNat + 1 = t.ref.toNat ∧ f.idx = s.pktIdx ∧ t.pktIdx = s.pktIdx + 1#64

/-- A frame begins with the first buffered bit and stops with the bit saved last (R152). -/
theorem frameParts?_ends {l : List BitInfo} {b : BitInfo} {g : FrameParts} (parts : frameParts? (l ++ [b]) = some g) :
    g.start.start = runStart l b.start ∧ g.stop = b := by
  obtain ⟨entries, -⟩ := frameParts?_some parts
  have split : l ++ [b] = g.start :: (g.data ++ [g.parity]) ++ [g.stop] := by simp [entries]
  constructor
  · rw [← runStart_append l b b.finish, entries, runStart]
  · exact (List.singleton_inj.mp (List.append_inj' split rfl).2).symm

/-- `save_bit` emits a Frame only on the eleventh bit, here one that begins where the buffered ones end and ends at the
new `ref` (R150, R157). -/
theorem saveBit_emitsFrame {s : State} {b : BitInfo} {f : Frame} (sync : s.sync = .locked)
    (run : tiles s.bb b.start = true) (span : b.start.toNat < b.finish.toNat) (finish : b.finish = s.ref)
    (emitted : .frame f ∈ newOutputs s (saveBit b s)) : EmitsFrame s (saveBit b s) f := by
  rcases saveBit_cases b s with ⟨-, saved⟩ | ⟨ten, g, parts, saved⟩ <;> rw [saved] at emitted ⊢
  · exact absurd emitted (frame_not_mem_none rfl f)
  · rw [newOutputs_eq rfl] at emitted
    obtain rfl := frame_mem_frameOutputs emitted
    obtain ⟨first, stop⟩ := frameParts?_ends parts
    have began := runStart_le_of_tiles run
    have last : (g.stop.finish - 1#64).toNat + 1 = s.ref.toNat := by
      rw [stop, ← finish]
      bv_omega
    refine ⟨sync, sync, ten, rfl, fun c head => ?_, ?_, last, rfl, rfl⟩
    · obtain ⟨rest, bb⟩ := List.head?_eq_some_iff.mp head
      rw [bb] at first
      exact first
    · show g.start.start.toNat ≤ (g.stop.finish - 1#64).toNat
      rw [first]
      rw [finish] at span
      omega

/-- A Frame is emitted only by the two rows that save a bit while `Locked` (R162). -/
theorem EdgeCase.emitsFrame {pos : Word} {s t : State} {f : Frame} (row : EdgeCase pos s t) (h : Inv s)
    (tl : Tiling s) (emitted : .frame f ∈ newOutputs s t) : EmitsFrame s t f := by
  have buffer := tl.buffer
  cases row with
  | halted | gskip | glitch | short1 => exact absurd emitted (frame_not_mem_none rfl f)
  | hLock m sync =>
    exact absurd emitted (frame_not_mem_none (lock_outputs (s := s.setRef pos) (h.huntingEmpty sync) _) f)
  | hOne => exact absurd emitted (frame_not_mem_marker rfl f)
  | hLock2 m sync =>
    exact absurd emitted (frame_not_mem_marker (lock_outputs (s := skipShort pos s) (h.huntingEmpty sync) _) f)
  | hLenerr =>
    rw [rejectDirect_rehunt] at emitted
    exact absurd emitted (frame_not_mem_marker rfl f)
  | hLenerr2 =>
    rw [rejectOnSecond_rehunt] at emitted
    exact absurd emitted (frame_not_mem_markers [_, _] (List.append_assoc _ _ _) f)
  | hTerr =>
    rw [failSlot_rehunt rfl] at emitted
    exact absurd emitted (frame_not_mem_marker rfl f)
  | lTerr m sync half c cause =>
    rw [failSlot_rehunt (by rcases cause with rfl | rfl <;> rfl)] at emitted
    exact absurd emitted (frame_not_mem_marker rfl f)
  | lZero m sync half short long =>
    rw [slotOrigin_between half] at buffer
    exact saveBit_emitsFrame (s := s.setRef pos) sync buffer
      (h.constants.ref_lt_of_window m.order (.inr long)) rfl emitted
  | lOne m sync half short =>
    rw [slotOrigin_of_half half] at buffer
    have span : s.slotStart.toNat < pos.toNat :=
      Nat.lt_of_le_of_lt (h.slotStart_le_ref half) (h.constants.ref_lt_of_window m.order (.inl short))
    exact saveBit_emitsFrame (s := (s.setRef pos).setHalf false) sync buffer span rfl emitted

/-- Settles O47: only an edge adds records, and only its two rows that save a bit while `Locked` add a Frame. -/
theorem frameOnlyFromElevenBits : Obligations.FrameOnlyFromElevenBits := by
  intro s t f hv tl h emitted
  cases step_inv h with
  | none | idle | reset => exact absurd emitted (frame_not_mem_none rfl f)
  | halt p rest inputs rst c cause =>
    exact absurd emitted (frame_not_mem_none (endRun_outputs cause (s.setInputs rest)) f)
  | edge p rest t inputs rst asks row =>
    exact row.emitsFrame (hv.setInputs rest) (tl.setInputs rest) emitted

end Sys2Proof.Machine
end

section
/-! PROOFS. Control events: the end of a run, edges after it, and events that coincide with each other or with a
reset. -/

namespace Sys2Proof.Machine

/-! ### The end of a run -/

theorem endRun_of_running {c : Cause} (hc : c = .sourceExhausted ∨ c = .cancelled) {s : State}
    (run : s.run = .running) : endRun c s = { s with bb := [], run := .halted } := by
  rw [endRun_eq s c hc, if_neg (by simp [run])]

/-- Either halting event discards the buffered bits and halts a running block (R173, R175). -/
theorem exec_halt_of_running {i : Instr} (h : i = .eos ∨ i = .cancel) {s : State} (run : s.run = .running) :
    exec i s = .next { s with bb := [], run := .halted } := by
  rcases h with rfl | rfl
  · rw [exec_eos, endRun_of_running (.inl rfl) run]
  · rw [exec_cancel, endRun_of_running (.inr rfl) run]

/-- A halted block ignores either halting event (R173, R175). -/
theorem exec_halt_of_halted {i : Instr} (h : i = .eos ∨ i = .cancel) {s : State} (run : s.run = .halted) :
    exec i s = .next s := by
  rcases h with rfl | rfl
  · rw [exec_eos, endRun_of_halted run]
  · rw [exec_cancel, endRun_of_halted run]

/-- Settles O15, for the two events alike. -/
theorem endOfRun : Obligations.EndOfRun := fun _ =>
  ⟨fun run => ⟨exec_halt_of_running (.inl rfl) run, exec_halt_of_running (.inr rfl) run⟩,
    fun run => ⟨exec_halt_of_halted (.inl rfl) run, exec_halt_of_halted (.inr rfl) run⟩⟩

/-- Settles O16: a halted block dispatches every edge to `E_HALT`. -/
theorem haltedEdgeIgnored : Obligations.HaltedEdgeIgnored := fun s pos =>
  ⟨exec_eHalt pos s, fun run => (EdgeCase.halted run).exec_edge⟩

/-! ### Reset beside an event -/

/-- A step reads the oldest presentation only through what it asks for. -/
theorem step_congr_fetch {p q : Ports} (same : fetch p = fetch q) (s : State) (rest : List Ports) :
    step (s.setInputs (p :: rest)) = step (s.setInputs (q :: rest)) := by
  have presented : (s.setInputs (q :: rest)).inputs = q :: rest := rfl
  cases asks : fetch q with
  | idle => exact (step_of_idle rfl (same.trans asks)).trans (step_of_idle presented asks).symm
  | instr i => exact (step_of_instr rfl (same.trans asks)).trans (step_of_instr presented asks).symm
  | reservedEventOp => exact (step_of_reserved rfl (same.trans asks)).trans (step_of_reserved presented asks).symm

/-- Without reset the configuration wires do not change what is asked for (R66). -/
theorem fetch_setCfg {p : Ports} (rst : p.rst = false) (a b : Word) :
    fetch { p with cfgFs := a, cfgStart := b } = fetch p := by
  simp only [fetch, Ports.word?, rst, Bool.false_eq_true, if_false]

/-- Settles O20: reset is asked for alone, and without it the configuration wires are not looked at. -/
theorem resetOverridesEvent : Obligations.ResetOverridesEvent := by
  intro s p rest v e a b
  refine ⟨fun rst => ?_, fun rst => ?_⟩
  · have alone : fetch { p with evValid := v, ev := e } = fetch p :=
      (fetch_of_rst (p := { p with evValid := v, ev := e }) rst).trans (fetch_of_rst rst).symm
    exact step_congr_fetch alone s rest
  · exact step_congr_fetch (fetch_setCfg rst a b) s rest

/-! ### Coinciding wires -/

/-- With a halting wire the serialisation begins with a halting event (R178). -/
theorem serialise_of_halting {c e : Bool} (halting : (c || e) = true) (edge : Option Word) :
    ∃ w ws i, serialise c e edge = w :: ws ∧ decode (.ev w) = .instr i ∧ (i = .eos ∨ i = .cancel) := by
  cases c with
  | true => exact ⟨_, _, .cancel, rfl, decode_evWord_cancel _, .inr rfl⟩
  | false =>
    rw [Bool.false_or] at halting
    subst halting
    exact ⟨_, _, .eos, rfl, decode_evWord_eos _, .inl rfl⟩

/-- The words of the serialisation are those of the wires that are set (R178). -/
theorem mem_serialise {c e : Bool} {edge : Option Word} {w : EvWord} :
    w ∈ serialise c e edge ↔
      (c = true ∧ w = evWord 2#2 0#64) ∨ (e = true ∧ w = evWord 1#2 0#64) ∨
      ∃ pos, edge = some pos ∧ w = evWord 0#2 pos := by
  cases edge <;> simp [serialise]

/-- The serialisation never sends the reserved `op` (R73). -/
theorem evOp_of_mem_serialise {c e : Bool} {edge : Option Word} {w : EvWord} (h : w ∈ serialise c e edge) :
    evOp w ≠ 3#2 := by
  rcases mem_serialise.mp h with ⟨-, rfl⟩ | ⟨-, rfl⟩ | ⟨pos, -, rfl⟩ <;> rw [evOp_evWord] <;> decide

/-- The first of several steps, when it answers a next state. -/
theorem runSteps_succ {s t : State} (h : step s = .next t) (n : Nat) : runSteps (n + 1) s = runSteps n t := by
  rw [runSteps, h]

/-- Settles O21: the first event halts the block, and the halted block takes the others unchanged (O17). -/
theorem haltingEventsFirst : Obligations.HaltingEventsFirst := by
  intro s pos rest c e halting run hi
  obtain ⟨w, ws, i, first, asks, halts⟩ := serialise_of_halting halting (some pos)
  rw [first, List.map_cons, List.cons_append] at hi
  have halted : step s = .next { s with inputs := ws.map Ports.ofEvent ++ rest, bb := [], run := .halted } := by
    rw [step_of_instr hi (fetch_of_event rfl rfl asks)]
    exact exec_halt_of_running (s := s.setInputs _) halts run
  have legal : ∀ p ∈ ws.map Ports.ofEvent, p.rst = false ∧ (p.evValid = true → p.ev.toNat / 2 ^ 64 ≠ 3) := by
    refine List.forall_mem_map.mpr fun x hx => ⟨rfl, fun _ reserved => ?_⟩
    have sent : x ∈ serialise c e (some pos) := by
      rw [first]
      exact List.mem_cons_of_mem w hx
    exact evOp_of_mem_serialise sent (BitVec.eq_of_toNat_eq ((evOp_toNat x).trans reserved))
  have ignored := haltedUntilReset { s with inputs := ws.map Ports.ofEvent ++ rest, bb := [], run := .halted }
    (ws.map Ports.ofEvent) rest rfl rfl legal
  rw [List.length_map] at ignored
  rw [first, List.length_cons, runSteps_succ halted, ignored]

end Sys2Proof.Machine
end

section
/-! PROOFS. Exceptions: the class and the marker of each cause that invalidates, and what taking an exception does. -/

namespace Sys2Proof.Machine

/-- The timing causes (R190). -/
theorem timing_causes : ∀ c ∈ [Cause.huntingSum, .lockedSum, .lockedLong],
    c.violation = .timing ∧ c.marker = some .errTiming := by decide

/-- The length causes (R190). -/
theorem preambleLength_causes : ∀ c ∈ [Cause.directLength, .strayLength],
    c.violation = .preambleLength ∧ c.marker = some .errLength := by decide

/-- A cause of either invalidating class emits its marker, then `Invalidate` (R200, R201, R207). -/
theorem raise_of_invalidating {c : Cause} {k : MarkerKind}
    (invalidating : c.violation = .timing ∨ c.violation = .preambleLength) (marker : c.marker = some k)
    (p : Word) (s : State) :
    raise c p s = { s with
      outputs := s.outputs ++ [.marker ⟨k, p⟩], sync := .hunting, pr := [], bb := [], half := false } := by
  have emitted : emitCause c p s = emitMarker k p s := by rw [emitCause, marker]
  have effect (t : State) : c.violation.effect t = invalidate t := by
    rcases invalidating with h | h <;> rw [h, Violation.effect]
  rw [raise, emitted, effect, invalidate_eq, emitMarker_eq]

/-- Source exhaustion and cancellation emit nothing; they discard the partial bits and halt (R203, R204). -/
theorem raise_of_halting {c : Cause} (hc : c = .sourceExhausted ∨ c = .cancelled) (p : Word) (s : State) :
    raise c p s = { s with bb := [], run := .halted } := by
  rcases hc with rfl | rfl <;> exact (raise_eq _ p s).trans (haltRun_eq s)

/-- Settles O41, class by class: the two that invalidate, the one that only marks (R202), and the two that halt. -/
theorem exceptionEntry : Obligations.ExceptionEntry := by
  intro s p
  refine ⟨invalidate_eq s, fun c hc => ?timing, fun c hc => ?preambleLength, rfl, rfl, ?parity, ?stop, rfl, rfl,
    raise_of_halting (.inl rfl) p s, raise_of_halting (.inr rfl) p s⟩
  case timing =>
    obtain ⟨isTiming, marker⟩ := timing_causes c hc
    exact ⟨by rw [isTiming, Violation.code], raise_of_invalidating (.inl isTiming) marker p s⟩
  case preambleLength =>
    obtain ⟨isLength, marker⟩ := preambleLength_causes c hc
    exact ⟨by rw [isLength, Violation.code], raise_of_invalidating (.inr isLength) marker p s⟩
  case parity => exact (raise_eq .parityMismatch p s).trans (emitMarker_eq .errParity p s)
  case stop => exact (raise_eq .stopMismatch p s).trans (emitMarker_eq .errStop p s)

end Sys2Proof.Machine
end

section
/-! PROOFS. The model's own choices: where an operation stops instead of answering a next state (log entries 4, 5
and 7). -/

namespace Sys2Proof.Machine

/-- The two rows that do not measure are not dispatched while an edge is to be measured (R81, R101). -/
theorem Measuring.selectRow_measures {s : State} (m : Measuring s) (pos : Word) :
    selectRow (dispatchBits pos s) ≠ .eHalt ∧ selectRow (dispatchBits pos s) ≠ .eGskip := by
  obtain ⟨-, running, skipping, -⟩ := dispatchBits_facts pos s
  constructor
  · intro halts
    have ht : (dispatchBits pos s).ht = true := (selectRow_iff _ .eHalt).mp halts
    exact Bool.false_ne_true ((running.mpr m.run).symm.trans ht)
  · intro skips
    obtain ⟨-, gs⟩ : (dispatchBits pos s).ht = false ∧ (dispatchBits pos s).gs = true :=
      (selectRow_iff _ .eGskip).mp skips
    exact Bool.false_ne_true (m.gskip.symm.trans (skipping.symm.trans gs))

/-- Settles O18: every row that measures refuses the position, and `EDGE` dispatches to such a row. -/
theorem edgeBelowReferenceRefused : Obligations.EdgeBelowReferenceRefused := by
  refine fun s pos below => ⟨fun m => ?edge, fun op => exec_row_below below⟩
  case edge =>
    obtain ⟨notHalt, notSkip⟩ := m.selectRow_measures pos
    rw [exec_edge, exec_row_below below notHalt notSkip]

/-- Settles O13: the rate fails the one test of `RST`. -/
theorem resetBelowMinimumRefused : Obligations.ResetBelowMinimumRefused := by
  intro s fs start below
  have unsupported : supportedRate fs = false := decide_eq_false (Nat.not_le.mpr below)
  rw [exec_rst, unsupported, if_neg Bool.false_ne_true]

/-- Settles O36: only eleven entries have roles (R152). -/
theorem assembleElsewhereFaults : Obligations.AssembleElsewhereFaults := by
  intro s notEleven
  rw [exec_faAssemble, frameParts?_none notEleven]

end Sys2Proof.Machine
end
